-- ==== Sys2Proof/Word.lean ====
section
/-! DEFINITION. The two word types of the block: a Field Byte (spec 00 R9) and a 32-bit register value (spec 00 R8). -/

namespace Sys2Proof

/-- A Field Byte, "an integer in [0,255]" (00 R9): arithmetic on it wraps modulo 256 (00 R11). -/
abbrev Byte := BitVec 8

/-- A register value, an unsigned 32-bit number (00 R8). -/
abbrev Word := BitVec 32

end Sys2Proof
end

