-- ==== Sys2Proof/Syntax.lean ====
section
/-! DEFINITION. The six commands of SEC-CMD revision 1 (spec 30 R91): one constructor per row of opcode_table.json. -/

namespace Sys2Proof

/-- A command (30 R91). No command has an operand in its word (30 R93): operands are registers and buffers. -/
inductive Instr where
  /-- GEN_MATRIX, OPC 0x01 (40 R111). -/
  | genMatrix
  /-- LOAD_MATRIX, OPC 0x02 (40 R112). -/
  | loadMatrix
  /-- EXPORT_MATRIX, OPC 0x03 (40 R113). -/
  | exportMatrix
  /-- CLEAR_MATRIX, OPC 0x04 (40 R114). -/
  | clearMatrix
  /-- ENCODE, OPC 0x10 (41 R142). -/
  | encode
  /-- DECODE, OPC 0x20 (42 R167). -/
  | decode
deriving DecidableEq, Repr

end Sys2Proof
end

