-- ==== Sys2Proof/Config.lean ====
section
/-! DEFINITION. What an implementation fixes (spec 00 R6), the reference configuration (00 R7), and the two
constants without a body: the digest function and the free values. -/

namespace Sys2Proof

/-- The implementation parameters of 00 R6, and the bus base address of 20 R84. Their bounds are
`Config.WellFormed`. -/
structure Config where
  /-- `K_MAX`, the largest data-segment length accepted. -/
  kMax : Nat
  /-- `M_MAX`, the largest parity-segment length accepted. -/
  mMax : Nat
  /-- `MRAM_BYTES`, the capacity of the matrix store. -/
  mramBytes : Nat
  /-- `IBUF_BYTES`, the capacity of the input buffer. -/
  ibufBytes : Nat
  /-- `OBUF_BYTES`, the capacity of the output buffer. -/
  obufBytes : Nat
  /-- `N_MAX`, the number of entries of the block length table. -/
  nMax : Nat
  /-- The identifier of `DIGEST` that `CFG_DIGEST[7:0]` reports (10 R34): 1 means SHA-256. -/
  digestId : Byte
  /-- `BASE`, the platform's address of the block (20 R84): nothing in the block depends on it. -/
  base : Nat
deriving DecidableEq, Repr

/-- The reference configuration `REF` (00 R7). DESIGN CHOICE (log entry 3): `base` is 0, since R7 gives none. -/
def Config.ref : Config where
  kMax := 1048576
  mMax := 1048576
  mramBytes := 2097152
  ibufBytes := 67108864
  obufBytes := 67108864
  nMax := 65536
  digestId := 1
  base := 0

/-- The 256-bit digest function `DIGEST` (00 R6), by its identifier: a total function from byte strings to
32-byte strings, kept uninterpreted as 42 R166 requires (log entry 4). -/
opaque Config.digest : Byte → List Byte → Vector Byte 32

/-- A free value: byte `position` of draw number `draw`. It stands for every byte the spec leaves unspecified:
store contents after reset (70 R230) and OBUF bytes read while BUSY (20 R68). Nothing constrains it (log entry 5). -/
opaque Config.freeByte (draw position : Nat) : Byte

end Sys2Proof
end

