-- ==== Sys2Proof/WellFormed.lean ====
section
/-! DEFINITION. Which terms are meaningful: commands (all of them, spec 30 R90) and configurations (spec 00 R6). -/

namespace Sys2Proof

/-- A command carries no register number, immediate or mode bit (30 R90), so each one is well formed. -/
def Instr.wf : Instr → Bool
  | .genMatrix => true
  | .loadMatrix => true
  | .exportMatrix => true
  | .clearMatrix => true
  | .encode => true
  | .decode => true

/-- The constraints on the implementation parameters (the table of 00 R6). -/
structure Config.WellFormed (c : Config) : Prop where
  kMax_pos : 1 ≤ c.kMax
  kMax_le : c.kMax ≤ 2 ^ 30
  mMax_pos : 1 ≤ c.mMax
  mMax_le : c.mMax ≤ 2 ^ 30
  mramBytes_pos : 1 ≤ c.mramBytes
  mramBytes_le : c.mramBytes ≤ 2 ^ 32 - 1
  ibufBytes_pos : 1 ≤ c.ibufBytes
  ibufBytes_le : c.ibufBytes ≤ 2 ^ 28
  obufBytes_pos : 1 ≤ c.obufBytes
  obufBytes_le : c.obufBytes ≤ 2 ^ 28
  nMax_pos : 1 ≤ c.nMax
  nMax_le : c.nMax ≤ 2 ^ 26

/-- The same constraints as a check that runs. -/
def Config.wf (c : Config) : Bool :=
  decide (1 ≤ c.kMax) && decide (c.kMax ≤ 2 ^ 30) &&
  decide (1 ≤ c.mMax) && decide (c.mMax ≤ 2 ^ 30) &&
  decide (1 ≤ c.mramBytes) && decide (c.mramBytes ≤ 2 ^ 32 - 1) &&
  decide (1 ≤ c.ibufBytes) && decide (c.ibufBytes ≤ 2 ^ 28) &&
  decide (1 ≤ c.obufBytes) && decide (c.obufBytes ≤ 2 ^ 28) &&
  decide (1 ≤ c.nMax) && decide (c.nMax ≤ 2 ^ 26)

end Sys2Proof
end

