-- ==== Sys2Proof/Decode.lean ====
section
/-! DEFINITION. The decoder of command words, total and rejecting by name (spec 30 R90 to R95), and after it the
encoder from the same opcode map (30 R91). -/

namespace Sys2Proof

/-- Why a byte string is no command (30 R92, R94, R95). The first two make an accepted word complete with
IllegalCommand; the third is no accepted word at all. -/
inductive DecodeError where
  /-- `RSVD`, bits [31:8], is not 0 (30 R92). -/
  | reservedBits
  /-- `OPC`, bits [7:0], is not in the opcode map (30 R94). -/
  | unlistedOpcode
  /-- The bytes are not exactly one 32-bit word (30 R95). -/
  | notOneWord
deriving DecidableEq, Repr

/-- The field `OPC` of a command word (30 R90). -/
def opcField (w : Word) : Byte := w.extractLsb' 0 8

/-- The field `RSVD` of a command word (30 R90). -/
def rsvdField (w : Word) : BitVec 24 := w.extractLsb' 8 24

/-- The opcode map of 30 R91. -/
def decodeOpcode (opc : Nat) : Option Instr :=
  match opc with
  | 0x01 => some .genMatrix
  | 0x02 => some .loadMatrix
  | 0x03 => some .exportMatrix
  | 0x04 => some .clearMatrix
  | 0x10 => some .encode
  | 0x20 => some .decode
  | _ => none

/-- Decoding a command word (30 R92): the reserved bits first, then the opcode map. -/
def decodeWord (w : Word) : Except DecodeError Instr :=
  if rsvdField w ≠ 0 then .error .reservedBits
  else match decodeOpcode (opcField w).toNat with
    | some i => .ok i
    | none => .error .unlistedOpcode

/-- The 32-bit word whose bytes, lowest address first, are `b0 b1 b2 b3` (20 R64: little-endian). -/
def wordOfBytes (b0 b1 b2 b3 : Byte) : Word := b3 ++ b2 ++ b1 ++ b0

/-- Decoding the bytes of an access to `CTRL`: exactly one word, no longer or shorter form (30 R95). -/
def decode : List Byte → Except DecodeError Instr
  | [b0, b1, b2, b3] => decodeWord (wordOfBytes b0 b1 b2 b3)
  | _ => .error .notOneWord

/-- The opcode of a command (30 R91). -/
def opcodeOf : Instr → Byte
  | .genMatrix => 0x01
  | .loadMatrix => 0x02
  | .exportMatrix => 0x03
  | .clearMatrix => 0x04
  | .encode => 0x10
  | .decode => 0x20

/-- The command word of a command: `zext_32(OPC)` (30 R91). -/
def encodeWord (i : Instr) : Word := (opcodeOf i).setWidth 32

/-- Byte `t` of a word, that is bits [8t+7:8t] (20 R64). -/
def wordByte (w : Word) (t : Nat) : Byte := w.extractLsb' (8 * t) 8

/-- The bytes of a command word, lowest address first (20 R64). -/
def encode (i : Instr) : List Byte := (List.range 4).map (wordByte (encodeWord i))

/-- The bytes of an instruction whose `nbits` bits are `w`, as the hardware takes them: one little-endian word,
and further bytes where `nbits` is larger than a word; bits above `nbits` are 0. -/
def tableBytes (nbits w : Nat) : List Byte :=
  (List.range (max 4 ((nbits + 7) / 8))).map fun t => BitVec.ofNat 8 ((w % 2 ^ nbits) >>> (8 * t))

/-- The command the decoder reads from an instruction whose bits are `w` (bit 0 the least significant). -/
def decodeTableWord (nbits w : Nat) : Option Instr :=
  match decode (tableBytes nbits w) with
  | .ok i => some i
  | .error _ => none

end Sys2Proof
end

