-- ==== Sys2Proof/Machine/State.lean ====
section
/-! DEFINITION. The state of the block as plain data (spec 10), the inputs of its environment, the reasons a step
can stop, and the state after reset (spec 70 R230, R233). -/

namespace Sys2Proof.Machine

/-- The error codes of `STATUS.ERR` (60 R201). "Codes 9 to 255 are never produced." -/
inductive ErrCode where
  /-- 0: completion with no error. -/
  | noError
  /-- 1 -/
  | invalidParameters
  /-- 2 -/
  | invalidBlockSize
  /-- 3 -/
  | matrixNotInvertible
  /-- 4 -/
  | integrityFailure
  /-- 5 -/
  | noMatrix
  /-- 6 -/
  | matrixLocked
  /-- 7 -/
  | capacityExceeded
  /-- 8 -/
  | illegalCommand
deriving DecidableEq, Repr

/-- What the unlisted bytes of a store hold. -/
inductive Fill where
  /-- Unspecified since reset (70 R230): byte `a` is the free value `Config.freeByte draw a`. -/
  | unspecified (draw : Nat)
  /-- One known byte: after CLEAR_MATRIX every byte of MRAM is 0 (40 R114). -/
  | byte (b : Byte)
deriving DecidableEq, Repr

/-- A store of bytes: the bytes written over its `fill`, listed by rising address. The canonical form is
`Memory.wf` (Machine/Ops.lean). -/
structure Memory where
  fill : Fill
  cells : List Host.Cell
deriving DecidableEq, Repr

/-- One host access (20 R60, R62): an offset relative to BASE, a width in bytes, and for a write the data value,
of which the low `8 * width` bits count. A width other than 1, 2 and 4 can be asked for and is a bus error. -/
inductive Access where
  | read (off : Word) (width : Nat)
  | write (off : Word) (width : Nat) (value : Word)
deriving DecidableEq, Repr

/-- What reaches the block next (00 R5, 20 R78, 60 R211, 70 R230). -/
inductive Input where
  /-- The Host's access, delivered by the bus. -/
  | access (a : Access)
  /-- The reset input `rst`. -/
  | rst
  /-- The Entropy source supplies one more byte. -/
  | entropy (b : Byte)
  /-- The Core takes its completion step before the next input (log entry 1). -/
  | core
deriving DecidableEq, Repr

/-- The block's answer to one host access: the error response of 20 R63 and the data value. A write returns no
data; its `data` is 0 (log entry 12). -/
structure Response where
  error : Bool
  data : Word
deriving DecidableEq, Repr

/-- The state of the block and, last, of what stands around it. -/
structure State where
  /-- The implementation's parameters (00 R6): constant (log entry 2). -/
  cfg : Config
  /-- `STATUS.BUSY` (10 R24): a command is in flight. -/
  busy : Bool
  /-- `STATUS.MVALID` (10 R24): a Parity Matrix is held. -/
  mvalid : Bool
  /-- `STATUS.ERR` (10 R24). -/
  err : ErrCode
  /-- `STATUS.LAST_CMD` (10 R24). -/
  lastCmd : Byte
  /-- `INT_STATUS[2:0]` (10 R25): WR_DROP, CMD_ERR, CMD_DONE from bit 2 to bit 0. -/
  intStatus : BitVec 3
  /-- `INT_ENABLE[2:0]` (10 R26): the enables of the same three events. -/
  intEnable : BitVec 3
  /-- `PARAM_K` (10 R27). -/
  paramK : Word
  /-- `PARAM_M` (10 R28). -/
  paramM : Word
  /-- `IN_LEN` (10 R29). -/
  inLen : Word
  /-- `BLK_N` (10 R30). -/
  blkN : Word
  /-- `OUT_LEN` (10 R31). -/
  outLen : Word
  /-- `BLK_OUT` (10 R32). -/
  blkOut : Word
  /-- `FAIL_INDEX` (10 R33). -/
  failIndex : Word
  /-- `CMDW`, the command word in flight (10 R41); while idle the last one, which nothing reads (log entry 7). -/
  cmdw : Word
  /-- `MRAM`, the matrix store (10 R36). -/
  mram : Memory
  /-- `WRAM`, the working store (10 R37). -/
  wram : Memory
  /-- `IBUF`, the input buffer (10 R38). -/
  ibuf : Memory
  /-- `OBUF`, the output buffer (10 R39). -/
  obuf : Memory
  /-- `BLT`, the block length table, as `4 * N_MAX` little-endian bytes (10 R40, 20 R64). -/
  blt : Memory
  /-- The model's own: the bytes the Entropy source offers and GEN_MATRIX has not taken (60 R211, log entry 8). -/
  entropy : List Byte
  /-- The model's own: the inputs still to arrive, first to come first (20 R78, log entry 1). -/
  inbox : List Input
  /-- The model's own: the answer to the last host access (log entry 12). -/
  response : Option Response
  /-- The model's own: the number of the next free draw (log entry 6). -/
  free : Nat
deriving DecidableEq, Repr

/-- Reasons for the machine to stop: none. The spec has no trap and nothing stops the block (60 R203, R204): an
error is the completion of a command, a bus error is an answer to the Host, and a stalled GEN_MATRIX waits. -/
inductive Fault where
deriving DecidableEq, Repr

/-- Reasons to give no meaning. -/
inductive Refusal where
  /-- An instruction without a meaning in `exec`. Nothing raises it: every arm has its meaning. It would be safe. -/
  | notModelled (mnemonic : String)
deriving DecidableEq, Repr

/-- A store whose contents are unspecified: no byte is known (70 R230). -/
def Memory.unknown (draw : Nat) : Memory := { fill := .unspecified draw, cells := [] }

/-- The state after power-on reset (70 R230, R233): every register at its reset value, the five stores unspecified
(draws 0 to 4), nothing offered by the environment. DESIGN CHOICE: `cmdw` is 0 (log entry 7), the configuration is
`REF` (log entry 2). -/
def State.reset : State where
  cfg := Config.ref
  busy := false
  mvalid := false
  err := .noError
  lastCmd := 0
  intStatus := 0
  intEnable := 0
  paramK := 0
  paramM := 0
  inLen := 0
  blkN := 0
  outLen := 0
  blkOut := 0
  failIndex := 0xFFFFFFFF
  cmdw := 0
  mram := Memory.unknown 0
  wram := Memory.unknown 1
  ibuf := Memory.unknown 2
  obuf := Memory.unknown 3
  blt := Memory.unknown 4
  entropy := []
  inbox := []
  response := none
  free := 5

end Sys2Proof.Machine
end

