-- ==== Sys2Proof/Machine/Ops.lean ====
section
/-! DEFINITION. The named operations: over a store, over the registers, and the completion of a command, which is
the one way an error is taken (spec 60 R200). -/

namespace Sys2Proof.Machine

/-! ## Stores -/

/-- The byte an unlisted address holds. -/
def Fill.byteAt : Fill → Nat → Byte
  | .unspecified draw, a => Config.freeByte draw a
  | .byte b, _ => b

/-- The listed byte at an address. -/
def lookupCell : List Host.Cell → Nat → Option Byte
  | [], _ => none
  | (c, b) :: rest, a => if a = c then some b else lookupCell rest a

/-- List a byte at an address, keeping the addresses rising. -/
def insertCell (a : Nat) (b : Byte) : List Host.Cell → List Host.Cell
  | [] => [(a, b)]
  | (c, x) :: rest =>
    if a < c then (a, b) :: (c, x) :: rest
    else if a = c then (a, b) :: rest
    else (c, x) :: insertCell a b rest

/-- Unlist an address. -/
def eraseCell (a : Nat) : List Host.Cell → List Host.Cell
  | [] => []
  | (c, x) :: rest => if a = c then rest else (c, x) :: eraseCell a rest

/-- The byte a store holds at an address: `MemRead` of one byte (00 R12). -/
def Memory.read (m : Memory) (a : Nat) : Byte :=
  match lookupCell m.cells a with
  | some b => b
  | none => m.fill.byteAt a

/-- Store one byte: a byte equal to a known fill is not listed, so equal contents are equal lists. -/
def Memory.write (m : Memory) (a : Nat) (b : Byte) : Memory :=
  if m.fill = .byte b then { m with cells := eraseCell a m.cells }
  else { m with cells := insertCell a b m.cells }

/-- `MemRead(S, a, n)` (00 R12): the byte string `S[a .. a+n)`. -/
def Memory.readBytes (m : Memory) (a n : Nat) : List Byte :=
  (List.range n).map fun t => m.read (a + t)

/-- `MemWrite(S, a, n, v)` (00 R12): store a byte string from address `a` on. -/
def Memory.writeBytes (m : Memory) (a : Nat) : List Byte → Memory
  | [] => m
  | b :: bs => (m.write a b).writeBytes (a + 1) bs

/-- A store all of whose bytes are `b`. -/
def Memory.filled (b : Byte) : Memory := { fill := .byte b, cells := [] }

/-- The canonical form: addresses strictly rising, and no listed byte equal to a known fill. -/
abbrev Memory.wf (m : Memory) : Prop :=
  m.cells.Pairwise (fun c d => c.1 < d.1) ∧ ∀ c ∈ m.cells, m.fill ≠ .byte c.2

/-- Every listed byte lies below the store's capacity. -/
abbrev Memory.within (m : Memory) (capacity : Nat) : Prop := ∀ c ∈ m.cells, c.1 < capacity

/-! ## Words and bytes -/

/-- The bytes of the low `8 * width` bits of a value: byte `t` is `v[8t+7:8t]` (20 R64). -/
def bytesOfValue (v : Word) (width : Nat) : List Byte := (List.range width).map (wordByte v)

/-- The value whose byte `t` is the `t`-th of the list, zero-extended (20 R64). -/
def valueOfBytes : List Byte → Word
  | [] => 0
  | b :: bs => b.setWidth 32 ||| (valueOfBytes bs <<< 8)

/-! ## Free draws -/

/-- The number of a fresh free draw is `s.free`; this marks it used (log entry 6). -/
def State.drawn (s : State) : State := { s with free := s.free + 1 }

/-- WRAM after DECODE has worked in it: its contents are not specified (42 R171), a fresh draw (log entry 10). -/
def State.scratchWram (s : State) : State :=
  { s with wram := Memory.unknown s.free, free := s.free + 1 }

/-! ## Acceptance and completion -/

/-- The bit CMD_DONE of `INT_STATUS` (10 R25). -/
def cmdDoneBit : BitVec 3 := 1

/-- The bit CMD_ERR of `INT_STATUS` (10 R25). -/
def cmdErrBit : BitVec 3 := 2

/-- The bit WR_DROP of `INT_STATUS` (10 R25). -/
def wrDropBit : BitVec 3 := 4

/-- `FAIL_INDEX` where no block failed (10 R33). -/
def noFailIndex : Word := 0xFFFFFFFF

/-- A command word is accepted (10 R23): these four fields change and nothing else. -/
def State.accept (s : State) (w : Word) : State :=
  { s with cmdw := w, busy := true, lastCmd := opcField w, err := .noError }

/-- The event bits a completion with code `e` sets (60 R200). -/
def completionBits (e : ErrCode) : BitVec 3 :=
  if e = .noError then cmdDoneBit else cmdDoneBit ||| cmdErrBit

/-- The common part of the completion step (60 R200): the result registers, the code, BUSY and the events. DESIGN
CHOICE (log entry 7): CMDW keeps the completed word, where 93 S5 leaves it any value while idle. -/
def State.finish (s : State) (e : ErrCode) (outLen blkOut failIndex : Word) : State :=
  { s with
    outLen := outLen
    blkOut := blkOut
    failIndex := failIndex
    err := e
    busy := false
    intStatus := s.intStatus ||| completionBits e }

/-- `complete(L, b)` (00 R12, 60 R200): the command ends with code 0. -/
def State.complete (s : State) (outLen blkOut : Nat) : State :=
  s.finish .noError (BitVec.ofNat 32 outLen) (BitVec.ofNat 32 blkOut) noFailIndex

/-- `raise E` (00 R12, 60 R200): the command ends with an error; no output is written. -/
def State.raise (s : State) (e : ErrCode) : State := s.finish e 0 0 noFailIndex

/-- `raise IntegrityFailure(i)` (00 R12, 60 R200): the error that also records the block index. -/
def State.raiseAt (s : State) (i : Nat) : State :=
  s.finish .integrityFailure 0 0 (BitVec.ofNat 32 i)

/-! ## Host writes under a lock, answers, reset -/

/-- A host write dropped by a lock (60 R205): `INT_STATUS.WR_DROP <- 1` and nothing else. -/
def State.dropWrite (s : State) : State := { s with intStatus := s.intStatus ||| wrDropBit }

/-- The block answers the Host's access. -/
def State.answer (s : State) (error : Bool) (data : Word) : State :=
  { s with response := some { error := error, data := data } }

/-- The `rst` input (70 R230, R231): every register and store takes its reset value whatever the block was doing,
the stores' contents by five fresh draws. The parameters are constant, and the Entropy source and the inputs still
to come are not the block's. -/
def State.restart (s : State) : State :=
  { State.reset with
    cfg := s.cfg
    mram := Memory.unknown s.free
    wram := Memory.unknown (s.free + 1)
    ibuf := Memory.unknown (s.free + 2)
    obuf := Memory.unknown (s.free + 3)
    blt := Memory.unknown (s.free + 4)
    free := s.free + 5
    entropy := s.entropy
    inbox := s.inbox }

end Sys2Proof.Machine
end

