-- ==== Sys2Proof/Machine/Flags.lean ====
section
/-! DEFINITION. The status and event words as the Host sees them (spec 10 R24 to R26, 60 R201) and the interrupt
output (60 R207). The block has no arithmetic flag (10 R43). -/

namespace Sys2Proof.Machine

/-- The numeric code of an error (60 R201). -/
def ErrCode.code : ErrCode → Byte
  | .noError => 0
  | .invalidParameters => 1
  | .invalidBlockSize => 2
  | .matrixNotInvertible => 3
  | .integrityFailure => 4
  | .noMatrix => 5
  | .matrixLocked => 6
  | .capacityExceeded => 7
  | .illegalCommand => 8

/-- `STATUS` (10 R24): reserved [31:24], LAST_CMD [23:16], ERR [15:8], reserved [7:2], MVALID [1], BUSY [0]. -/
def State.statusWord (s : State) : Word :=
  s.lastCmd.setWidth 32 <<< 16 ||| s.err.code.setWidth 32 <<< 8 ||| (BitVec.ofBool s.mvalid).setWidth 32 <<< 1 |||
    (BitVec.ofBool s.busy).setWidth 32

/-- `INT_STATUS` (10 R25): bits [31:3] read 0. -/
def State.intStatusWord (s : State) : Word := s.intStatus.setWidth 32

/-- `INT_ENABLE` (10 R26): bits [31:3] read 0. -/
def State.intEnableWord (s : State) : Word := s.intEnable.setWidth 32

/-- Bits [2:0] of a written value. -/
def eventBits (v : Word) : BitVec 3 := v.extractLsb' 0 3

/-- A write to `INT_STATUS` (10 R25): `INT_STATUS[2:0] <- INT_STATUS[2:0] AND NOT v[2:0]`. -/
def State.clearEvents (s : State) (v : Word) : State :=
  { s with intStatus := s.intStatus &&& ~~~ eventBits v }

/-- A write to `INT_ENABLE` (10 R26): `INT_ENABLE[2:0] <- v[2:0]`. -/
def State.enableEvents (s : State) (v : Word) : State := { s with intEnable := eventBits v }

/-- The pending bit CMD_DONE. -/
def State.cmdDone (s : State) : Bool := s.intStatus.getLsbD 0

/-- The pending bit CMD_ERR. -/
def State.cmdErr (s : State) : Bool := s.intStatus.getLsbD 1

/-- The pending bit WR_DROP. -/
def State.wrDrop (s : State) : Bool := s.intStatus.getLsbD 2

/-- The interrupt output (60 R207), a level. -/
def State.irq (s : State) : Bool :=
  (s.cmdDone && s.intEnable.getLsbD 0) || (s.cmdErr && s.intEnable.getLsbD 1) ||
    (s.wrDrop && s.intEnable.getLsbD 2)

end Sys2Proof.Machine
end

