-- ==== Sys2Proof/Machine/Bus.lean ====
section
/-! DEFINITION. The host port: apertures, access checks and bus errors (spec 20 R60 to R63), the register map
(10 R21 to R35) and the accesses to IBUF, OBUF and BLT (20 R66 to R69). -/

namespace Sys2Proof.Machine

/-- The registers of aperture 0 (10 R22). -/
inductive Reg where
  | id | ctrl | status | intStatus | intEnable | paramK | paramM | inLen | blkN | outLen | blkOut | failIndex
  | cfgKMax | cfgMMax | cfgMramBytes | cfgIbufBytes | cfgObufBytes | cfgNMax | cfgDigest
deriving DecidableEq, Repr

/-- The register at an aligned offset of aperture 0; none at a reserved offset (10 R22, R35). -/
def regAt (off : Nat) : Option Reg :=
  match off with
  | 0x000 => some .id
  | 0x004 => some .ctrl
  | 0x008 => some .status
  | 0x00C => some .intStatus
  | 0x010 => some .intEnable
  | 0x014 => some .paramK
  | 0x018 => some .paramM
  | 0x01C => some .inLen
  | 0x020 => some .blkN
  | 0x024 => some .outLen
  | 0x028 => some .blkOut
  | 0x02C => some .failIndex
  | 0x030 => some .cfgKMax
  | 0x034 => some .cfgMMax
  | 0x038 => some .cfgMramBytes
  | 0x03C => some .cfgIbufBytes
  | 0x040 => some .cfgObufBytes
  | 0x044 => some .cfgNMax
  | 0x048 => some .cfgDigest
  | _ => none

/-- The offset of a register (10 R22). -/
def Reg.offset : Reg → Word
  | .id => 0x000
  | .ctrl => 0x004
  | .status => 0x008
  | .intStatus => 0x00C
  | .intEnable => 0x010
  | .paramK => 0x014
  | .paramM => 0x018
  | .inLen => 0x01C
  | .blkN => 0x020
  | .outLen => 0x024
  | .blkOut => 0x028
  | .failIndex => 0x02C
  | .cfgKMax => 0x030
  | .cfgMMax => 0x034
  | .cfgMramBytes => 0x038
  | .cfgIbufBytes => 0x03C
  | .cfgObufBytes => 0x040
  | .cfgNMax => 0x044
  | .cfgDigest => 0x048

/-- The value of `ID` (10 R21): "SEC" and revision 1. -/
def idValue : Word := 0x53454301

/-- What a read of a register returns (10 R21 to R34). -/
def State.readReg (s : State) : Reg → Word
  | .id => idValue
  | .ctrl => 0
  | .status => s.statusWord
  | .intStatus => s.intStatusWord
  | .intEnable => s.intEnableWord
  | .paramK => s.paramK
  | .paramM => s.paramM
  | .inLen => s.inLen
  | .blkN => s.blkN
  | .outLen => s.outLen
  | .blkOut => s.blkOut
  | .failIndex => s.failIndex
  | .cfgKMax => BitVec.ofNat 32 s.cfg.kMax
  | .cfgMMax => BitVec.ofNat 32 s.cfg.mMax
  | .cfgMramBytes => BitVec.ofNat 32 s.cfg.mramBytes
  | .cfgIbufBytes => BitVec.ofNat 32 s.cfg.ibufBytes
  | .cfgObufBytes => BitVec.ofNat 32 s.cfg.obufBytes
  | .cfgNMax => BitVec.ofNat 32 s.cfg.nMax
  | .cfgDigest => s.cfg.digestId.setWidth 32

/-- A write under the lock of BUSY: dropped while it holds (10 R29, R30, 20 R67, R69). -/
def State.unlessBusy (s : State) (stored : State) : State := if s.busy then s.dropWrite else stored

/-- A write under the lock of BUSY or MVALID (10 R27, R28). -/
def State.unlessHeld (s : State) (stored : State) : State :=
  if s.busy || s.mvalid then s.dropWrite else stored

/-- What a write of `v` to a register does (10 R21 to R34): read-only registers ignore it. -/
def State.writeReg (s : State) (v : Word) : Reg → State
  | .id => s
  | .ctrl => s.unlessBusy (s.accept v)
  | .status => s
  | .intStatus => s.clearEvents v
  | .intEnable => s.enableEvents v
  | .paramK => s.unlessHeld { s with paramK := v }
  | .paramM => s.unlessHeld { s with paramM := v }
  | .inLen => s.unlessBusy { s with inLen := v }
  | .blkN => s.unlessBusy { s with blkN := v }
  | .outLen => s
  | .blkOut => s
  | .failIndex => s
  | .cfgKMax => s
  | .cfgMMax => s
  | .cfgMramBytes => s
  | .cfgIbufBytes => s
  | .cfgObufBytes => s
  | .cfgNMax => s
  | .cfgDigest => s

/-- What an access selects when rules 20 R61 and R62 allow it, with its local offset. -/
inductive Target where
  | reg (off : Nat)
  | blt (a : Nat)
  | ibuf (a : Nat)
  | obuf (a : Nat)
deriving DecidableEq, Repr

/-- The aperture of an offset, `off[31:28]` (20 R60). -/
def apertureOf (off : Word) : Nat := (off.extractLsb' 28 4).toNat

/-- The local offset, `off[27:0]` (20 R60). -/
def localOf (off : Word) : Nat := (off.extractLsb' 0 28).toNat

/-- An access REG and BLT take: 4 bytes, aligned, inside the aperture (20 R61, R62). -/
def wordAccessOk (size a width : Nat) : Bool := width == 4 && a % 4 == 0 && decide (a + 4 ≤ size)

/-- An access IBUF and OBUF take: 1, 2 or 4 bytes, naturally aligned, inside the aperture (20 R61, R62). -/
def byteAccessOk (size a width : Nat) : Bool :=
  (width == 1 || width == 2 || width == 4) && a % width == 0 && decide (a + width ≤ size)

/-- The target of an access; none where the answer is a bus error (20 R61 to R63). -/
def targetOf (c : Config) (off : Word) (width : Nat) : Option Target :=
  match apertureOf off with
  | 0 => if wordAccessOk 0x1000 (localOf off) width then some (.reg (localOf off)) else none
  | 1 => if wordAccessOk (4 * c.nMax) (localOf off) width then some (.blt (localOf off)) else none
  | 2 => if byteAccessOk c.ibufBytes (localOf off) width then some (.ibuf (localOf off)) else none
  | 3 => if byteAccessOk c.obufBytes (localOf off) width then some (.obuf (localOf off)) else none
  | _ => none

/-- The register at a local offset of aperture 0 as a read sees it: 0 at a reserved offset (10 R35). -/
def State.readRegAt (s : State) (off : Nat) : Word :=
  match regAt off with
  | some r => s.readReg r
  | none => 0

/-- A write at a local offset of aperture 0: ignored at a reserved offset (10 R35). -/
def State.writeRegAt (s : State) (off : Nat) (v : Word) : State :=
  match regAt off with
  | some r => s.writeReg v r
  | none => s

/-- `width` bytes of free draw `s.free`, for a read of OBUF while BUSY (20 R68). -/
def State.freeBytes (s : State) (width : Nat) : List Byte :=
  (List.range width).map (Config.freeByte s.free)

/-- A host read (20 R63, R66 to R69): no side effect on the block. An OBUF read while BUSY takes a fresh free draw
for its bytes. -/
def State.hostRead (s : State) (off : Word) (width : Nat) : State :=
  match targetOf s.cfg off width with
  | none => s.answer true 0
  | some (.reg a) => s.answer false (s.readRegAt a)
  | some (.blt a) => s.answer false (valueOfBytes (s.blt.readBytes a width))
  | some (.ibuf a) => s.answer false (valueOfBytes (s.ibuf.readBytes a width))
  | some (.obuf a) =>
    if s.busy then s.drawn.answer false (valueOfBytes (s.freeBytes width))
    else s.answer false (valueOfBytes (s.obuf.readBytes a width))

/-- A host write (20 R63, R66 to R69): stored, ignored, dropped, or a bus error; every write to OBUF is a bus
error. -/
def State.hostWrite (s : State) (off : Word) (width : Nat) (v : Word) : State :=
  match targetOf s.cfg off width with
  | none => s.answer true 0
  | some (.reg a) => (s.writeRegAt a v).answer false 0
  | some (.blt a) =>
    (s.unlessBusy { s with blt := s.blt.writeBytes a (bytesOfValue v width) }).answer false 0
  | some (.ibuf a) =>
    (s.unlessBusy { s with ibuf := s.ibuf.writeBytes a (bytesOfValue v width) }).answer false 0
  | some (.obuf _) => s.answer true 0

/-- One host access, performed whole (20 R75). -/
def State.hostAccess (s : State) : Access → State
  | .read off width => s.hostRead off width
  | .write off width v => s.hostWrite off width v

end Sys2Proof.Machine
end

