-- ==== Sys2Proof/Machine/Codec.lean ====
section
/-! DEFINITION. The arithmetic of the codec on byte strings and matrices: parity and frames (spec 41 R140, R141),
the reconstructed candidate and the digest comparison (42 R164 to R166), and the invertibility decision (42 R162). -/

namespace Sys2Proof.Machine

/-- The exact sum over `i` of `D[i] * M[i][j]` (41 R140), on integers. `rows` are the rows of `M`. -/
def laneSum (data : List Byte) (rows : List (List Byte)) (j : Nat) : Nat :=
  (List.zipWith (fun d row => d.toNat * (row.getD j 0).toNat) data rows).sum

/-- `Parity(D, M)` (41 R140): lane `j` is the exact sum, reduced once modulo 256. -/
def parity (m : Nat) (data : List Byte) (rows : List (List Byte)) : List Byte :=
  (List.range m).map fun j => BitVec.ofNat 8 (laneSum data rows j % 256)

/-- `Frame(D, M) = D ++ Parity(D, M)` (41 R141). -/
def frame (m : Nat) (data : List Byte) (rows : List (List Byte)) : List Byte :=
  data ++ parity m data rows

/-- Byte-wise exclusive-or of two strings (00 R9). -/
def xorBytes (x y : List Byte) : List Byte := List.zipWith (· ^^^ ·) x y

/-- The syndrome `S = Parity(D, M) xor P` (42 R164). -/
def syndrome (m : Nat) (data stored : List Byte) (rows : List (List Byte)) : List Byte :=
  xorBytes (parity m data rows) stored

/-- The reconstructed candidate `C = D xor S` (42 R165). -/
def candidate (m : Nat) (data stored : List Byte) (rows : List (List Byte)) : List Byte :=
  xorBytes data (syndrome m data stored rows)

/-- Equality of two digests is decided; equal arguments settle it without looking into `Config.digest`, which has
no body. The proposition decided is the equality of the digests (log entry 4). -/
def digestEqDecidable (id : Byte) (x y : List Byte) :
    Decidable (Config.digest id x = Config.digest id y) :=
  if h : x = y then .isTrue (congrArg (Config.digest id) h) else inferInstance

/-- The integrity verifier (42 R166): match exactly when the two digests are equal. -/
def digestsMatch (id : Byte) (x y : List Byte) : Bool :=
  @decide (Config.digest id x = Config.digest id y) (digestEqDecidable id x y)

/-- The inverse modulo 256 of an odd byte, by two Newton steps from the byte itself (42 R163). -/
def oddInverse (p : Byte) : Byte :=
  let x := p * (2 - p * p)
  x * (2 - p * x)

/-- The first row whose leading entry is odd, and the other rows in their order (42 R163). -/
def splitPivot : List (List Byte) → Option (List Byte × List (List Byte))
  | [] => none
  | row :: rows =>
    if (row.headD 0).getLsbD 0 then some (row, rows)
    else match splitPivot rows with
      | some (pivot, rest) => some (pivot, row :: rest)
      | none => none

/-- Subtract the multiple of the pivot row that clears a row's leading entry, and drop that entry (42 R163). -/
def clearColumn (pivot row : List Byte) : List Byte :=
  List.zipWith (fun x p => x - row.headD 0 * oddInverse (pivot.headD 0) * p) row.tail pivot.tail

/-- The decision of `Invertible256` (42 R162) for a `k x k` matrix given by its rows, by elimination modulo 256 with
odd pivots (42 R163, log entry 21). What it decides is `Sys2Proof.Invertible256` (Safety.lean). -/
def eliminates : Nat → List (List Byte) → Bool
  | 0, _ => true
  | k + 1, rows =>
    match splitPivot rows with
    | some (pivot, rest) => eliminates k (rest.map (clearColumn pivot))
    | none => false

end Sys2Proof.Machine
end

