-- ==== Sys2Proof/Machine/Operands.lean ====
section
/-! DEFINITION. The operands of the commands (spec 30 R93): registers as exact integers (00 R11), the matrix and the
blocks as byte strings read from the stores (10 R36, 20 R71 to R74), and the checks on them. -/

namespace Sys2Proof.Machine

/-- `k = x[PARAM_K]` as an exact integer (30 R93). -/
def State.k (s : State) : Nat := s.paramK.toNat

/-- `m = x[PARAM_M]`. -/
def State.m (s : State) : Nat := s.paramM.toNat

/-- `L = x[IN_LEN]`. -/
def State.len (s : State) : Nat := s.inLen.toNat

/-- `n = x[BLK_N]`. -/
def State.n (s : State) : Nat := s.blkN.toNat

/-- `ValidKM(k, m)` (40 R110). -/
abbrev ValidKM (c : Config) (k m : Nat) : Prop :=
  1 ≤ k ∧ k ≤ c.kMax ∧ 1 ≤ m ∧ m ≤ c.mMax ∧ k * m ≤ c.mramBytes

/-- The matrix entry `M[i][j]`, at `MRAM[i*m + j]` (10 R36). -/
def State.entry (s : State) (i j : Nat) : Byte := s.mram.read (i * s.m + j)

/-- The rows of the Parity Matrix: `k` rows of `m` bytes (10 R36). -/
def State.matrix (s : State) : List (List Byte) :=
  (List.range s.k).map fun i => s.mram.readBytes (i * s.m) s.m

/-- The matrix in transport order, row-major (20 R74). -/
def State.matrixBytes (s : State) : List Byte := s.mram.readBytes 0 (s.k * s.m)

/-- Data Segment `i` of an ENCODE input: `IBUF[i*k .. (i+1)*k)` (41 R142). -/
def State.segment (s : State) (i : Nat) : List Byte := s.ibuf.readBytes (i * s.k) s.k

/-- The Framed Blocks of an ENCODE input of `n` segments, one after another (20 R71). -/
def State.encodedBlocks (s : State) (n : Nat) : List Byte :=
  (List.range n).flatMap fun i => frame s.m (s.segment i) s.matrix

/-- `BLT[i]`, the stated length of block `i` (10 R40), at bytes `4*i .. 4*i+3` of the table. -/
def State.bltEntry (s : State) (i : Nat) : Word := valueOfBytes (s.blt.readBytes (4 * i) 4)

/-- Every stated length is `k + m` (42 R160). -/
def State.lengthsOk (s : State) : Bool :=
  (List.range s.n).all fun i => (s.bltEntry i).toNat == s.k + s.m

/-- The stored Data Segment `D_i` of a decode input (20 R72). -/
def State.blockData (s : State) (i : Nat) : List Byte := s.ibuf.readBytes (i * (s.k + s.m)) s.k

/-- The stored Parity Segment `P_i` of a decode input (20 R72). -/
def State.blockParity (s : State) (i : Nat) : List Byte :=
  s.ibuf.readBytes (i * (s.k + s.m) + s.k) s.m

/-- The reconstructed candidate `C_i` of block `i` (42 R165). -/
def State.blockCandidate (s : State) (i : Nat) : List Byte :=
  candidate s.m (s.blockData i) (s.blockParity i) s.matrix

/-- The verdict of the integrity verifier on block `i` (42 R166). -/
def State.blockMatches (s : State) (i : Nat) : Bool :=
  digestsMatch s.cfg.digestId (s.blockData i) (s.blockCandidate i)

/-- The first block, in Block Set order, whose digests disagree (42 R167). -/
def State.firstMismatch (s : State) : Option Nat :=
  (List.range s.n).find? fun i => !s.blockMatches i

/-- The stored Data Segments in Block Set order (20 R73). -/
def State.decodedData (s : State) : List Byte := (List.range s.n).flatMap s.blockData

end Sys2Proof.Machine
end

