-- ==== Sys2Proof/Machine/DecodeEngine.lean ====
section
/-! DEFINITION. The Integrity-Verified Decode Engine (spec 42): DECODE's completion step. -/

namespace Sys2Proof.Machine

/-- DECODE from the copy of `M` in WRAM on (42 R167): the invertibility gate, then the blocks in Block Set order,
then the output. WRAM's contents are lost at completion (42 R171, log entry 10). -/
def decodeGated (s : State) : State :=
  if eliminates s.k s.matrix = false then s.scratchWram.raise .matrixNotInvertible
  else match s.firstMismatch with
    | some i => s.scratchWram.raiseAt i
    | none =>
      { s.scratchWram with obuf := s.obuf.writeBytes 0 s.decodedData }.complete (s.n * s.k) s.n

/-- DECODE (42 R167): the checks in their order, then the gate and the blocks. -/
def execDecode (s : State) : Host.Outcome State Fault Refusal :=
  if s.mvalid = false then .next (s.raise .noMatrix)
  else if s.cfg.nMax < s.n ∨ s.cfg.ibufBytes < s.len then .next (s.raise .capacityExceeded)
  else if s.lengthsOk = false then .next (s.raise .invalidBlockSize)
  else if s.len ≠ s.n * (s.k + s.m) then .next (s.raise .invalidBlockSize)
  else if s.cfg.obufBytes < s.n * s.k then .next (s.raise .capacityExceeded)
  else if s.m ≠ s.k then .next (s.raise .matrixNotInvertible)
  else .next (decodeGated s)

end Sys2Proof.Machine
end

