-- ==== Sys2Proof/Machine/EncodeEngine.lean ====
section
/-! DEFINITION. The Encode Engine (spec 41): ENCODE's completion step. -/

namespace Sys2Proof.Machine

/-- ENCODE (41 R142): the input is `n = L / k` Data Segments, the output their Framed Blocks from `OBUF[0]` on. -/
def execEncode (s : State) : Host.Outcome State Fault Refusal :=
  if s.mvalid = false then .next (s.raise .noMatrix)
  else if s.cfg.ibufBytes < s.len then .next (s.raise .capacityExceeded)
  else if s.len % s.k ≠ 0 then .next (s.raise .invalidBlockSize)
  else if s.cfg.obufBytes < s.len / s.k * (s.k + s.m) then .next (s.raise .capacityExceeded)
  else .next
    ({ s with obuf := s.obuf.writeBytes 0 (s.encodedBlocks (s.len / s.k)) }.complete
      (s.len / s.k * (s.k + s.m)) (s.len / s.k))

end Sys2Proof.Machine
end

