-- ==== Sys2Proof/Machine/Matrix.lean ====
section
/-! DEFINITION. The Parity Matrix Generator commands (spec 40): each is its completion step (60 R200). -/

namespace Sys2Proof.Machine

/-- A matrix is installed from its transport bytes (20 R74): MRAM from byte 0 on, and MVALID. -/
def State.installMatrix (s : State) (bytes : List Byte) : State :=
  { s with mram := s.mram.writeBytes 0 bytes, mvalid := true }

/-- The Entropy source has handed over `count` bytes, in order (60 R211). -/
def State.takeEntropy (s : State) (count : Nat) : State := { s with entropy := s.entropy.drop count }

/-- GEN_MATRIX (40 R111). While the Entropy source has not supplied the `k*m` bytes the command cannot complete
and BUSY stays 1 (60 R211): the state does not change (log entry 9). -/
def execGenMatrix (s : State) : Host.Outcome State Fault Refusal :=
  if s.mvalid = true then .next (s.raise .matrixLocked)
  else if ¬ ValidKM s.cfg s.k s.m then .next (s.raise .invalidParameters)
  else if s.entropy.length < s.k * s.m then .next s
  else .next (((s.installMatrix (s.entropy.take (s.k * s.m))).takeEntropy (s.k * s.m)).complete 0 0)

/-- LOAD_MATRIX (40 R112). -/
def execLoadMatrix (s : State) : Host.Outcome State Fault Refusal :=
  if s.mvalid = true then .next (s.raise .matrixLocked)
  else if ¬ ValidKM s.cfg s.k s.m then .next (s.raise .invalidParameters)
  else if s.cfg.ibufBytes < s.len then .next (s.raise .capacityExceeded)
  else if s.len ≠ s.k * s.m then .next (s.raise .invalidBlockSize)
  else .next ((s.installMatrix (s.ibuf.readBytes 0 (s.k * s.m))).complete 0 0)

/-- EXPORT_MATRIX (40 R113). -/
def execExportMatrix (s : State) : Host.Outcome State Fault Refusal :=
  if s.mvalid = false then .next (s.raise .noMatrix)
  else if s.cfg.obufBytes < s.k * s.m then .next (s.raise .capacityExceeded)
  else .next ({ s with obuf := s.obuf.writeBytes 0 s.matrixBytes }.complete (s.k * s.m) 0)

/-- CLEAR_MATRIX (40 R114): every byte of MRAM becomes 0 and the codec instance ends. -/
def execClearMatrix (s : State) : Host.Outcome State Fault Refusal :=
  .next ({ s with mram := Memory.filled 0, mvalid := false }.complete 0 0)

end Sys2Proof.Machine
end

