-- ==== Sys2Proof/Machine/Dispatch.lean ====
section
/-! DEFINITION. Which meaning each command has: one arm per constructor. -/

namespace Sys2Proof.Machine

/-- The completion step of a command (60 R200): its rule on the state at acceptance. -/
def exec (i : Instr) (s : State) : Host.Outcome State Fault Refusal :=
  match i with
  | .genMatrix => Sys2Proof.Machine.execGenMatrix s
  | .loadMatrix => Sys2Proof.Machine.execLoadMatrix s
  | .exportMatrix => Sys2Proof.Machine.execExportMatrix s
  | .clearMatrix => Sys2Proof.Machine.execClearMatrix s
  | .encode => Sys2Proof.Machine.execEncode s
  | .decode => Sys2Proof.Machine.execDecode s

end Sys2Proof.Machine
end

