-- ==== Sys2Proof/Machine/Turn.lean ====
section
/-! DEFINITION. What happens next: the Core's completion step, an input of the environment, and which of the two
(spec 20 R78, 60 R200, 70 R230 to R232, R242). -/

namespace Sys2Proof.Machine

/-- The Core's turn (60 R200): the command word in flight is decoded (30 R92) and its rule evaluated; a word that
is no command ends with IllegalCommand. With no command in flight the Core waits (70 R232). -/
def coreTurn (s : State) : Host.Outcome State Fault Refusal :=
  if s.busy then
    match decodeWord s.cmdw with
    | .ok i => exec i s
    | .error _ => .next (s.raise .illegalCommand)
  else .next s

/-- The Entropy source supplies one more byte (60 R211). -/
def State.supply (s : State) (b : Byte) : State := { s with entropy := s.entropy ++ [b] }

/-- One input reaches the block. -/
def serve (x : Input) (s : State) : Host.Outcome State Fault Refusal :=
  match x with
  | .access a => .next (s.hostAccess a)
  | .rst => .next s.restart
  | .entropy b => .next (s.supply b)
  | .core => coreTurn s

/-- One event (20 R78): the next input where there is one; with none left, the Core's completion, which is then
taken (70 R242), or nothing. -/
def nextEvent (s : State) : Host.Outcome State Fault Refusal :=
  match s.inbox with
  | [] => coreTurn s
  | x :: rest => serve x { s with inbox := rest }

/-- The command word `w` stands accepted (10 R23) and the Core has the next turn. -/
def State.placeCommand (s : State) (w : Word) : State :=
  { s.accept w with inbox := .core :: s.inbox }

end Sys2Proof.Machine
end

