-- ==== Sys2Proof/Machine/Step.lean ====
section
/-! DEFINITION. The step of the machine, and the placement of one command as the next to run. -/

namespace Sys2Proof.Machine

/-- One step: one event of the single interleaving of host accesses and completion steps (spec 20 R78). -/
def step (s : State) : Host.Outcome State Fault Refusal := nextEvent s

/-- The state in which the next step runs the command whose bits are `w`: the word has been accepted (10 R23), as
after a write to CTRL, and the Core has the next turn (log entry 14). Bits at and above `nbits` are 0. -/
def State.withFetchWord (s : State) (nbits w : Nat) : State :=
  s.placeCommand (BitVec.ofNat 32 (w % 2 ^ nbits))

end Sys2Proof.Machine
end

