-- ==== Sys2Proof/Safety.lean ====
section
/-! DEFINITION. The vocabulary of the claims: which accesses the rules permit, what no command writes, what
invertibility means, and the invariant of every state. -/

namespace Sys2Proof

open Machine

/-! ## Matrices -/

/-- The `k x k` matrix of Field Bytes whose rows are listed; its arithmetic is modulo 256 (00 R10, R11). -/
def byteMatrix (k : Nat) (rows : List (List Byte)) : Matrix (Fin k) (Fin k) Byte :=
  fun i j => (rows.getD i []).getD j 0

/-- `Invertible256(A)` (42 R162): some matrix of bytes `B` has `A · B ≡ I (mod 256)`. -/
def Invertible256 (k : Nat) (rows : List (List Byte)) : Prop :=
  ∃ b : Matrix (Fin k) (Fin k) Byte, byteMatrix k rows * b = 1

/-! ## Host accesses -/

/-- The aperture of an offset, as a number (20 R60). -/
def apertureNo (off : Word) : Nat := off.toNat / 2 ^ 28

/-- The local offset, as a number (20 R60). -/
def localOffset (off : Word) : Nat := off.toNat % 2 ^ 28

/-- An access of `width` bytes that 20 R61 and R62 permit to aperture REG or BLT of `size` bytes. -/
def WordAccess (size off width : Nat) : Prop := width = 4 ∧ off % 4 = 0 ∧ off + 4 ≤ size

/-- An access of `width` bytes that 20 R61 and R62 permit to aperture IBUF or OBUF of `size` bytes. -/
def ByteAccess (size off width : Nat) : Prop :=
  (width = 1 ∨ width = 2 ∨ width = 4) ∧ off % width = 0 ∧ off + width ≤ size

/-- The accesses that 20 R61 and R62 permit. -/
def Permitted (c : Config) (off : Word) (width : Nat) : Prop :=
  (apertureNo off = 0 ∧ WordAccess 0x1000 (localOffset off) width) ∨
  (apertureNo off = 1 ∧ WordAccess (4 * c.nMax) (localOffset off) width) ∨
  (apertureNo off = 2 ∧ ByteAccess c.ibufBytes (localOffset off) width) ∨
  (apertureNo off = 3 ∧ ByteAccess c.obufBytes (localOffset off) width)

/-! ## Frames -/

/-- What no command writes (60 R200): the parameters, the operand registers, INT_ENABLE, LAST_CMD, IBUF and BLT; of the
model's own fields the inputs to come and the answer to the Host; and CMDW, which is the model's choice once the block is
idle (log entry 7: 93 S5 leaves it any value then). -/
structure KeptByCommand (s t : State) : Prop where
  cfg : t.cfg = s.cfg
  lastCmd : t.lastCmd = s.lastCmd
  intEnable : t.intEnable = s.intEnable
  paramK : t.paramK = s.paramK
  paramM : t.paramM = s.paramM
  inLen : t.inLen = s.inLen
  blkN : t.blkN = s.blkN
  cmdw : t.cmdw = s.cmdw
  ibuf : t.ibuf = s.ibuf
  blt : t.blt = s.blt
  inbox : t.inbox = s.inbox
  response : t.response = s.response

/-- The completion fields (60 R200) of a command that ended in state `t` with a code, from state `s`. -/
structure EndedWith (s t : State) (e : ErrCode) (outLen blkOut : Nat) (failIndex : Word) : Prop where
  err : t.err = e
  busy : t.busy = false
  outLen : t.outLen.toNat = outLen
  blkOut : t.blkOut.toNat = blkOut
  failIndex : t.failIndex = failIndex
  intStatus : t.intStatus = s.intStatus ||| (if e = .noError then 1 else 3)

/-- The outputs an error never writes (60 R200): MRAM, MVALID and OBUF; and no entropy byte is taken (60 R211). -/
structure OutputsKept (s t : State) : Prop where
  mram : t.mram = s.mram
  mvalid : t.mvalid = s.mvalid
  obuf : t.obuf = s.obuf
  entropy : t.entropy = s.entropy

/-- WRAM and the free draws are as before: every command but DECODE (20 R70). -/
structure ScratchKept (s t : State) : Prop where
  wram : t.wram = s.wram
  free : t.free = s.free

/-- A command ended with the error `e` and has no effect at all beyond the completion fields (60 R200). -/
structure RaisedOnly (s t : State) (e : ErrCode) : Prop where
  ended : EndedWith s t e 0 0 0xFFFFFFFF
  kept : KeptByCommand s t
  outputs : OutputsKept s t
  scratch : ScratchKept s t

/-! ## The invariant -/

/-- The draw number of an unspecified fill is one already used (log entry 6). -/
def DrawUsed (s : State) (m : Memory) : Prop := ∀ d, m.fill = .unspecified d → d < s.free

/-- A store in canonical form, inside its capacity, with a used draw. -/
structure StoreOk (s : State) (m : Memory) (capacity : Nat) : Prop where
  wf : m.wf
  within : m.within capacity
  drawUsed : DrawUsed s m

/-- The invariant of the machine. -/
structure Inv (s : State) : Prop where
  /-- The parameters obey 00 R6. -/
  config : s.cfg.WellFormed
  /-- A held matrix has valid dimensions (40 R110, 10 R27, R28). -/
  held : s.mvalid = true → ValidKM s.cfg s.k s.m
  mramOk : StoreOk s s.mram s.cfg.mramBytes
  wramOk : StoreOk s s.wram s.cfg.mramBytes
  ibufOk : StoreOk s s.ibuf s.cfg.ibufBytes
  obufOk : StoreOk s s.obuf s.cfg.obufBytes
  bltOk : StoreOk s s.blt (4 * s.cfg.nMax)
  /-- While a command is in flight, ERR is 0 and LAST_CMD is `CMDW[7:0]` (10 R23, R41). -/
  inFlight : s.busy = true → s.err = .noError ∧ s.lastCmd = opcField s.cmdw
  /-- `FAIL_INDEX` is 0xFFFF_FFFF unless the last command ended in IntegrityFailure (10 R33). -/
  failIndex : s.busy = false → s.err ≠ .integrityFailure → s.failIndex = 0xFFFFFFFF
  /-- An error leaves no output length and no block count (10 R31, R32). -/
  errorLengths : s.busy = false → s.err ≠ .noError → s.outLen = 0 ∧ s.blkOut = 0
  /-- The output length never exceeds OBUF (10 R31, R39). -/
  outLen : s.outLen.toNat ≤ s.cfg.obufBytes

end Sys2Proof
end

