-- ==== Sys2Proof/Certificates/Slice0/Obligations.lean ====
section
/-! DEFINITION. The statements about the machine, each from the numbered rules of spec/ that its docstring names. Where a
statement says through `KeptByCommand` or `RaisedOnly` that CMDW is kept over a completion, that part is the model's
choice (log entry 7), and no rule is cited for it. -/

open Sys2Proof Sys2Proof.Machine

/-! ## Command words -/

/-- 30 R91: a word selects a command exactly when it is that command's word (mask 0xFFFF_FFFF). -/
def Obligations.WordsSelectCommands : Prop :=
  ∀ w : Word,
    (decodeWord w = .ok .genMatrix ↔ w = 0x00000001) ∧
    (decodeWord w = .ok .loadMatrix ↔ w = 0x00000002) ∧
    (decodeWord w = .ok .exportMatrix ↔ w = 0x00000003) ∧
    (decodeWord w = .ok .clearMatrix ↔ w = 0x00000004) ∧
    (decodeWord w = .ok .encode ↔ w = 0x00000010) ∧
    (decodeWord w = .ok .decode ↔ w = 0x00000020)

/-- 30 R90, R91, R95: the decoder reads back the word, and the four bytes, of every command. -/
def Obligations.DecodeOfEncode : Prop :=
  ∀ i : Instr, decodeWord (encodeWord i) = .ok i ∧ decode (encode i) = .ok i ∧
    rsvdField (encodeWord i) = 0

/-- 30 R91, R94 on words written out from the map: byte 0 is OPC, bytes 1 to 3 are RSVD. -/
def Obligations.WrittenOutWords : Prop :=
  decode [0x01, 0x00, 0x00, 0x00] = .ok .genMatrix ∧
  decode [0x03, 0x00, 0x00, 0x00] = .ok .exportMatrix ∧
  decode [0x10, 0x00, 0x00, 0x00] = .ok .encode ∧
  decode [0x20, 0x00, 0x00, 0x00] = .ok .decode ∧
  decode [0x11, 0x00, 0x00, 0x00] = .error .unlistedOpcode ∧
  decode [0x10, 0x01, 0x00, 0x00] = .error .reservedBits ∧
  decode [0x10] = .error .notOneWord

/-- 30 R94, R92, 60 R200: an accepted word that is no command completes with IllegalCommand (code 8) and has no other
effect. That CMDW keeps the word after the completion is the model's choice (log entry 7). -/
def Obligations.IllegalWordsComplete : Prop :=
  ErrCode.illegalCommand.code = 8 ∧
  ∀ s : State, s.busy = true →
    s.cmdw ≠ 0x00000001 → s.cmdw ≠ 0x00000002 → s.cmdw ≠ 0x00000003 → s.cmdw ≠ 0x00000004 →
    s.cmdw ≠ 0x00000010 → s.cmdw ≠ 0x00000020 →
    let ended := fun u : State =>
      { u with outLen := 0, blkOut := 0, failIndex := 0xFFFFFFFF, err := .illegalCommand, busy := false,
               intStatus := u.intStatus ||| 3 }
    (s.inbox = [] → step s = .next (ended s)) ∧
    ∀ rest, s.inbox = .core :: rest → step s = .next (ended { s with inbox := rest })

/-! ## The step -/

/-- 60 R200, 30 R92: with a command in flight and the Core's turn, the step is `exec` of the decoded command; all the
step adds is that it takes the turn from the inbox. Three clauses rest on the model's own choices and on no rule: that
the inbox holds the turn (log entry 1), that an empty inbox gives the Core its turn (log entry 20), and the placement of
a command by `withFetchWord` (log entry 14). -/
def Obligations.StepRunsDecodedCommand : Prop :=
  (∀ (s : State) (i : Instr), s.busy = true → decodeWord s.cmdw = .ok i →
    (s.inbox = [] → step s = exec i s) ∧
    ∀ rest, s.inbox = .core :: rest → step s = exec i { s with inbox := rest }) ∧
  ∀ (s : State) (i : Instr) (w : Word), decodeWord w = .ok i →
    step (s.withFetchWord 32 w.toNat) = exec i (s.accept w)

/-- 20 R78: the inputs are processed one at a time in the order of the inbox; 70 R232: with no command in flight
the Core does nothing. The inbox itself is the model's (log entry 1). -/
def Obligations.InputsServedInOrder : Prop :=
  ∀ (s : State) (rest : List Input),
    (∀ a, s.inbox = .access a :: rest → step s = .next ({ s with inbox := rest }.hostAccess a)) ∧
    (s.inbox = .rst :: rest → step s = .next { s with inbox := rest }.restart) ∧
    (∀ b, s.inbox = .entropy b :: rest →
      step s = .next { s with inbox := rest, entropy := s.entropy ++ [b] }) ∧
    (s.busy = false → s.inbox = .core :: rest → step s = .next { s with inbox := rest }) ∧
    (s.busy = false → s.inbox = [] → step s = .next s)

/-- 70 R242, 60 R211: whatever the inputs, once they are served and the Core has had its turn no command is in
flight, but for a GEN_MATRIX whose checks passed and whose entropy bytes have not all come. -/
def Obligations.CommandsComplete : Prop :=
  ∀ s : State, ∃ t : State, core.run (s.inbox.length + 1) s = .next t ∧ t.inbox = [] ∧
    (t.busy = true →
      decodeWord t.cmdw = .ok .genMatrix ∧ t.mvalid = false ∧ ValidKM t.cfg t.k t.m ∧
      t.entropy.length < t.k * t.m)

/-! ## Registers

In every statement about a host write, here and under "The bus", the data value 0 of the answer is the model's choice
(log entry 12): the spec gives a write no data, and no rule is cited for it. -/

/-- 10 R21: ID reads 0x5345_4301 in every state, and writes are ignored (their answer's data 0 is log entry 12). -/
def Obligations.IdRegister : Prop :=
  ∀ (s : State) (v : Word),
    s.hostAccess (.read 0x000 4) = { s with response := some { error := false, data := 0x53454301 } } ∧
    s.hostAccess (.write 0x000 4 v) = { s with response := some { error := false, data := 0 } } ∧
    (0x53454301 : Word).extractLsb' 8 24 = 0x534543 ∧ (0x53454301 : Word).extractLsb' 0 8 = 0x01

/-- 10 R23: CTRL reads 0; a write is dropped while BUSY and otherwise accepted, changing four fields. The last clause,
that with no further input the very next step completes the word, but for a GEN_MATRIX whose bytes are missing, is the
model's schedule (log entry 20): R23 says only that the word later completes. -/
def Obligations.CtrlRegister : Prop :=
  ∀ (s : State) (v : Word),
    s.hostAccess (.read 0x004 4) = { s with response := some { error := false, data := 0 } } ∧
    (s.busy = true → s.hostAccess (.write 0x004 4 v) =
      { s with intStatus := s.intStatus ||| 4, response := some { error := false, data := 0 } }) ∧
    (s.busy = false → s.hostAccess (.write 0x004 4 v) =
      { s with cmdw := v, busy := true, lastCmd := v.extractLsb' 0 8, err := .noError,
               response := some { error := false, data := 0 } }) ∧
    (s.busy = false → s.inbox = [] → ∃ t, step (s.hostAccess (.write 0x004 4 v)) = .next t ∧
      (t.busy = false ∨ (v = 0x00000001 ∧ s.entropy.length < s.k * s.m ∧
        t = s.hostAccess (.write 0x004 4 v))))

/-- 10 R24: the fields of STATUS as a read returns them; writes are ignored. -/
def Obligations.StatusFields : Prop :=
  ∀ (s : State) (v : Word),
    (∃ w : Word, s.hostAccess (.read 0x008 4) = { s with response := some { error := false, data := w } } ∧
      w.getLsbD 0 = s.busy ∧ w.getLsbD 1 = s.mvalid ∧ w.extractLsb' 2 6 = 0 ∧
      w.extractLsb' 8 8 = s.err.code ∧ w.extractLsb' 16 8 = s.lastCmd ∧ w.extractLsb' 24 8 = 0) ∧
    s.hostAccess (.write 0x008 4 v) = { s with response := some { error := false, data := 0 } }

/-- 10 R24, 60 R205, R206, R215: who writes the status and event bits, over every step. BUSY, ERR and LAST_CMD are
written by an acceptance, a completion or reset and by nothing else; MVALID by the completion of GEN_MATRIX, LOAD_MATRIX
or CLEAR_MATRIX or by reset. A pending bit is cleared only by a host write of 1 to it or by reset, and set only by a
completion (CMD_DONE), a completion with an error (CMD_ERR) or a host write that a lock drops and that changes nothing
else (WR_DROP). INT_ENABLE is written only by a host write to it or by reset. That an empty inbox gives the Core its
turn is the model's schedule (log entry 20). -/
def Obligations.StatusWriters : Prop :=
  ∀ s t : State, step s = .next t →
    ((t.busy = s.busy ∧ t.err = s.err ∧ t.lastCmd = s.lastCmd) ∨
     (s.busy = false ∧ ∃ v rest, s.inbox = .access (.write 0x004 4 v) :: rest ∧
        t.busy = true ∧ t.err = .noError ∧ t.lastCmd = v.extractLsb' 0 8) ∨
     (s.busy = true ∧ (s.inbox = [] ∨ s.inbox.head? = some .core) ∧ t.busy = false ∧ t.lastCmd = s.lastCmd) ∨
     (s.inbox.head? = some .rst ∧ t.busy = false ∧ t.err = .noError ∧ t.lastCmd = 0)) ∧
    (t.mvalid = s.mvalid ∨
     (s.busy = true ∧ t.busy = false ∧ (s.inbox = [] ∨ s.inbox.head? = some .core) ∧
        (s.cmdw = 0x00000001 ∨ s.cmdw = 0x00000002 ∨ s.cmdw = 0x00000004)) ∨
     (s.inbox.head? = some .rst ∧ t.mvalid = false)) ∧
    (∀ b < 3, s.intStatus.getLsbD b = true → t.intStatus.getLsbD b = false →
      (∃ v, s.inbox.head? = some (.access (.write 0x00C 4 v)) ∧ v.getLsbD b = true) ∨
        s.inbox.head? = some .rst) ∧
    (∀ b < 3, s.intStatus.getLsbD b = false → t.intStatus.getLsbD b = true →
      (b = 0 ∧ s.busy = true ∧ t.busy = false ∧ (s.inbox = [] ∨ s.inbox.head? = some .core)) ∨
      (b = 1 ∧ s.busy = true ∧ t.busy = false ∧ t.err ≠ .noError ∧
        (s.inbox = [] ∨ s.inbox.head? = some .core)) ∨
      (b = 2 ∧ (s.busy = true ∨ s.mvalid = true) ∧ ∃ off width v rest,
        s.inbox = .access (.write off width v) :: rest ∧
        t = { s with inbox := rest, intStatus := s.intStatus ||| 4, response := t.response })) ∧
    (t.intEnable = s.intEnable ∨
     (∃ v, s.inbox.head? = some (.access (.write 0x010 4 v)) ∧ t.intEnable = v.extractLsb' 0 3) ∨
     (s.inbox.head? = some .rst ∧ t.intEnable = 0))

/-- 10 R25: INT_STATUS shows the three pending bits and zeros, and a write clears the bits written 1, at any time. -/
def Obligations.InterruptStatusRegister : Prop :=
  ∀ (s : State) (v : Word),
    (∃ w : Word, s.hostAccess (.read 0x00C 4) = { s with response := some { error := false, data := w } } ∧
      w.extractLsb' 0 3 = s.intStatus ∧ w.extractLsb' 3 29 = 0) ∧
    ∃ t, s.hostAccess (.write 0x00C 4 v) = t ∧
      t = { s with intStatus := t.intStatus, response := some { error := false, data := 0 } } ∧
      ∀ b < 3, t.intStatus.getLsbD b = (s.intStatus.getLsbD b && !v.getLsbD b)

/-- 10 R26: INT_ENABLE takes bits [2:0] of a write at any time, reads zeros above them, and is 0 at reset. A
write's answer data 0 is log entry 12. -/
def Obligations.InterruptEnableRegister : Prop :=
  State.reset.intEnable = 0 ∧
  ∀ (s : State) (v : Word),
    (∃ w : Word, s.hostAccess (.read 0x010 4) = { s with response := some { error := false, data := w } } ∧
      w.extractLsb' 0 3 = s.intEnable ∧ w.extractLsb' 3 29 = 0) ∧
    s.hostAccess (.write 0x010 4 v) =
      { s with intEnable := v.extractLsb' 0 3, response := some { error := false, data := 0 } }

/-- 60 R207: `irq` is the or of the pending bits with their enables, as the two registers read; 0 after reset. -/
def Obligations.InterruptOutput : Prop :=
  (∀ s : State, ∀ st en : Word,
    (s.hostAccess (.read 0x00C 4)).response = some { error := false, data := st } →
    (s.hostAccess (.read 0x010 4)).response = some { error := false, data := en } →
    (s.irq = true ↔ (st.getLsbD 0 = true ∧ en.getLsbD 0 = true) ∨ (st.getLsbD 1 = true ∧ en.getLsbD 1 = true) ∨
      (st.getLsbD 2 = true ∧ en.getLsbD 2 = true))) ∧
  State.reset.irq = false ∧ ∀ s : State, s.restart.irq = false

/-- 10 R27, R28: PARAM_K and PARAM_M take every value and read it back; a write is dropped with WR_DROP while BUSY
or MVALID is 1. -/
def Obligations.ParameterRegisters : Prop :=
  ∀ (s : State) (v : Word),
    s.hostAccess (.read 0x014 4) = { s with response := some { error := false, data := s.paramK } } ∧
    s.hostAccess (.read 0x018 4) = { s with response := some { error := false, data := s.paramM } } ∧
    (s.busy = false → s.mvalid = false →
      s.hostAccess (.write 0x014 4 v) =
        { s with paramK := v, response := some { error := false, data := 0 } } ∧
      s.hostAccess (.write 0x018 4 v) =
        { s with paramM := v, response := some { error := false, data := 0 } }) ∧
    (s.busy = true ∨ s.mvalid = true →
      s.hostAccess (.write 0x014 4 v) =
        { s with intStatus := s.intStatus ||| 4, response := some { error := false, data := 0 } } ∧
      s.hostAccess (.write 0x018 4 v) =
        { s with intStatus := s.intStatus ||| 4, response := some { error := false, data := 0 } })

/-- 10 R29, R30: IN_LEN and BLK_N take every value and read it back; a write is dropped with WR_DROP while BUSY. -/
def Obligations.LengthRegisters : Prop :=
  ∀ (s : State) (v : Word),
    s.hostAccess (.read 0x01C 4) = { s with response := some { error := false, data := s.inLen } } ∧
    s.hostAccess (.read 0x020 4) = { s with response := some { error := false, data := s.blkN } } ∧
    (s.busy = false →
      s.hostAccess (.write 0x01C 4 v) = { s with inLen := v, response := some { error := false, data := 0 } } ∧
      s.hostAccess (.write 0x020 4 v) = { s with blkN := v, response := some { error := false, data := 0 } }) ∧
    (s.busy = true →
      s.hostAccess (.write 0x01C 4 v) =
        { s with intStatus := s.intStatus ||| 4, response := some { error := false, data := 0 } } ∧
      s.hostAccess (.write 0x020 4 v) =
        { s with intStatus := s.intStatus ||| 4, response := some { error := false, data := 0 } })

/-- 10 R31 to R33, R22: the result registers read their values, and writes to them are ignored. -/
def Obligations.ResultRegisters : Prop :=
  ∀ (s : State) (v : Word),
    s.hostAccess (.read 0x024 4) = { s with response := some { error := false, data := s.outLen } } ∧
    s.hostAccess (.read 0x028 4) = { s with response := some { error := false, data := s.blkOut } } ∧
    s.hostAccess (.read 0x02C 4) = { s with response := some { error := false, data := s.failIndex } } ∧
    s.hostAccess (.write 0x024 4 v) = { s with response := some { error := false, data := 0 } } ∧
    s.hostAccess (.write 0x028 4 v) = { s with response := some { error := false, data := 0 } } ∧
    s.hostAccess (.write 0x02C 4 v) = { s with response := some { error := false, data := 0 } }

/-- 10 R34: the CFG registers report the parameters, ignore writes, and no step of the machine changes them. -/
def Obligations.ConfigurationRegisters : Prop :=
  (∀ s : State, s.cfg.WellFormed →
    ∃ k m r i o n d : Word,
      s.hostAccess (.read 0x030 4) = { s with response := some { error := false, data := k } } ∧ k.toNat = s.cfg.kMax ∧
      s.hostAccess (.read 0x034 4) = { s with response := some { error := false, data := m } } ∧ m.toNat = s.cfg.mMax ∧
      s.hostAccess (.read 0x038 4) = { s with response := some { error := false, data := r } } ∧
        r.toNat = s.cfg.mramBytes ∧
      s.hostAccess (.read 0x03C 4) = { s with response := some { error := false, data := i } } ∧
        i.toNat = s.cfg.ibufBytes ∧
      s.hostAccess (.read 0x040 4) = { s with response := some { error := false, data := o } } ∧
        o.toNat = s.cfg.obufBytes ∧
      s.hostAccess (.read 0x044 4) = { s with response := some { error := false, data := n } } ∧ n.toNat = s.cfg.nMax ∧
      s.hostAccess (.read 0x048 4) = { s with response := some { error := false, data := d } } ∧
        d.extractLsb' 0 8 = s.cfg.digestId ∧ d.extractLsb' 8 24 = 0) ∧
  (∀ (s : State) (off v : Word), 0x030 ≤ off.toNat → off.toNat ≤ 0x048 → off.toNat % 4 = 0 →
    s.hostAccess (.write off 4 v) = { s with response := some { error := false, data := 0 } }) ∧
  ∀ s t : State, step s = .next t → t.cfg = s.cfg

/-- 10 R35: a reserved offset of aperture 0 reads 0 and ignores writes, without side effect. A write's
answer data 0 is log entry 12. -/
def Obligations.ReservedOffsets : Prop :=
  ∀ (s : State) (off v : Word), 0x04C ≤ off.toNat → off.toNat ≤ 0xFFC → off.toNat % 4 = 0 →
    s.hostAccess (.read off 4) = { s with response := some { error := false, data := 0 } } ∧
    s.hostAccess (.write off 4 v) = { s with response := some { error := false, data := 0 } }

/-! ## The bus -/

/-- 20 R61 to R63: exactly the accesses the rules permit are answered without an error; every other access, and every
write to aperture 3, is a bus error that changes no state of the block. A read that ends in a bus error returns the data
value 0 (R63); that the answer to a write, refused or not, carries the data value 0 is the model's choice (log entry
12). -/
def Obligations.BusErrors : Prop :=
  ∀ (s : State) (off v : Word) (width : Nat),
    let refused : State := { s with response := some { error := true, data := 0 } }
    (¬ Permitted s.cfg off width →
      s.hostAccess (.read off width) = refused ∧ s.hostAccess (.write off width v) = refused) ∧
    (apertureNo off = 3 → s.hostAccess (.write off width v) = refused) ∧
    (Permitted s.cfg off width →
      (∃ d, (s.hostAccess (.read off width)).response = some { error := false, data := d }) ∧
      (apertureNo off ≠ 3 →
        (s.hostAccess (.write off width v)).response = some { error := false, data := 0 }))

/-- 20 R67, R64: IBUF reads return the current bytes, little-endian; a write while idle stores exactly the bytes it
covers; a write while BUSY is dropped with WR_DROP; the Core never writes IBUF. A write's answer data 0 is log entry
12. -/
def Obligations.IbufAccesses : Prop :=
  (∀ (s : State) (off v : Word) (width : Nat),
    apertureNo off = 2 → ByteAccess s.cfg.ibufBytes (localOffset off) width →
    (∃ d : Word, s.hostAccess (.read off width) = { s with response := some { error := false, data := d } } ∧
      (∀ t < width, d.extractLsb' (8 * t) 8 = s.ibuf.read (localOffset off + t)) ∧
      d.toNat < 2 ^ (8 * width)) ∧
    (s.busy = false → s.ibuf.wf → ∃ b : Memory,
      s.hostAccess (.write off width v) =
        { s with ibuf := b, response := some { error := false, data := 0 } } ∧
      (∀ t < width, b.read (localOffset off + t) = v.extractLsb' (8 * t) 8) ∧
      ∀ a, a < localOffset off ∨ localOffset off + width ≤ a → b.read a = s.ibuf.read a) ∧
    (s.busy = true → s.hostAccess (.write off width v) =
      { s with intStatus := s.intStatus ||| 4, response := some { error := false, data := 0 } })) ∧
  ∀ s t : State, coreTurn s = .next t → t.ibuf = s.ibuf

/-- 20 R68: OBUF reads while idle return the current bytes; while BUSY each byte is a free draw, a fresh one for
each read (log entry 6); every write is a bus error. -/
def Obligations.ObufAccesses : Prop :=
  ∀ (s : State) (off : Word) (width : Nat), apertureNo off = 3 →
    (ByteAccess s.cfg.obufBytes (localOffset off) width →
      ∃ d : Word,
        (s.busy = false →
          s.hostAccess (.read off width) = { s with response := some { error := false, data := d } } ∧
          ∀ t < width, d.extractLsb' (8 * t) 8 = s.obuf.read (localOffset off + t)) ∧
        (s.busy = true →
          s.hostAccess (.read off width) =
            { s with response := some { error := false, data := d }, free := s.free + 1 } ∧
          ∀ t < width, d.extractLsb' (8 * t) 8 = Config.freeByte s.free t) ∧
        d.toNat < 2 ^ (8 * width)) ∧
    ∀ v, s.hostAccess (.write off width v) = { s with response := some { error := true, data := 0 } }

/-- 20 R69: a BLT read returns the entry; a write while idle stores the entry and leaves every other entry; a write
while BUSY is dropped with WR_DROP. A write's answer data 0 is log entry 12. -/
def Obligations.BltAccesses : Prop :=
  ∀ (s : State) (off v : Word) (i : Nat), i < s.cfg.nMax → off.toNat = 2 ^ 28 + 4 * i → i < 2 ^ 26 →
    s.hostAccess (.read off 4) = { s with response := some { error := false, data := s.bltEntry i } } ∧
    (s.busy = false → s.blt.wf → ∃ t, s.hostAccess (.write off 4 v) = t ∧
      t = { s with blt := t.blt, response := some { error := false, data := 0 } } ∧
      t.bltEntry i = v ∧ ∀ j, j ≠ i → t.bltEntry j = s.bltEntry j) ∧
    (s.busy = true → s.hostAccess (.write off 4 v) =
      { s with intStatus := s.intStatus ||| 4, response := some { error := false, data := 0 } })

/-- 20 R66, R76: no read has a side effect, and reading again returns the same value; the exception is an OBUF read
while BUSY, which uses a free draw. -/
def Obligations.ReadsHaveNoSideEffect : Prop :=
  ∀ (s : State) (off : Word) (width : Nat),
    let t := s.hostAccess (.read off width)
    t = { s with response := t.response, free := t.free } ∧
    (apertureNo off ≠ 3 ∨ s.busy = false → t.free = s.free ∧ t.hostAccess (.read off width) = t)

/-- 70 R236, 20 R77: while BUSY no host access changes an input, an output or the command in flight; a write to CTRL,
PARAM_K, PARAM_M, IN_LEN, BLK_N, IBUF or BLT sets WR_DROP and changes nothing else. -/
def Obligations.InputsFrozenWhileBusy : Prop :=
  ∀ s : State, s.busy = true →
    (∀ a : Access, let t := s.hostAccess a
      t = { s with intStatus := t.intStatus, intEnable := t.intEnable, response := t.response, free := t.free }) ∧
    ∀ (off v : Word) (width : Nat),
      (width = 4 ∧ (off = 0x004 ∨ off = 0x014 ∨ off = 0x018 ∨ off = 0x01C ∨ off = 0x020)) ∨
      (Permitted s.cfg off width ∧ (apertureNo off = 1 ∨ apertureNo off = 2)) →
      s.hostAccess (.write off width v) =
        { s with intStatus := s.intStatus ||| 4, response := some { error := false, data := 0 } }

/-! ## Matrix commands -/

/-- 40 R111, R116: with no matrix held, valid dimensions and the bytes supplied, GEN_MATRIX installs the next `k*m`
entropy bytes, whatever they are, row-major in draw order. -/
def Obligations.GenMatrixInstallsDraw : Prop :=
  ∀ s : State, s.mvalid = false → ValidKM s.cfg s.k s.m → s.k * s.m ≤ s.entropy.length → s.mram.wf →
    ∃ t, exec .genMatrix s = .next t ∧ EndedWith s t .noError 0 0 0xFFFFFFFF ∧ KeptByCommand s t ∧
      ScratchKept s t ∧ t.mvalid = true ∧ t.obuf = s.obuf ∧ t.entropy = s.entropy.drop (s.k * s.m) ∧
      (∀ i < s.k, ∀ j < s.m, some (t.mram.read (i * s.m + j)) = s.entropy[i * s.m + j]?) ∧
      ∀ a, s.k * s.m ≤ a → t.mram.read a = s.mram.read a

/-- 40 R111, R110: GEN_MATRIX raises MatrixLocked, then InvalidParameters; no entropy is drawn and nothing else
changes. -/
def Obligations.GenMatrixErrors : Prop :=
  ∀ s : State,
    (s.mvalid = true → ∃ t, exec .genMatrix s = .next t ∧ RaisedOnly s t .matrixLocked) ∧
    (s.mvalid = false →
      ¬ (1 ≤ s.k ∧ s.k ≤ s.cfg.kMax ∧ 1 ≤ s.m ∧ s.m ≤ s.cfg.mMax ∧ s.k * s.m ≤ s.cfg.mramBytes) →
      ∃ t, exec .genMatrix s = .next t ∧ RaisedOnly s t .invalidParameters)

/-- 60 R211: while the Entropy source has not supplied the bytes GEN_MATRIX does not complete: BUSY and everything
else stay as they are. -/
def Obligations.GenMatrixWaitsForEntropy : Prop :=
  ∀ s : State, s.mvalid = false → ValidKM s.cfg s.k s.m → s.entropy.length < s.k * s.m →
    exec .genMatrix s = .next s

/-- 40 R112: LOAD_MATRIX installs the `k*m` bytes of IBUF row-major. -/
def Obligations.LoadMatrixInstallsInput : Prop :=
  ∀ s : State, s.mvalid = false → ValidKM s.cfg s.k s.m → s.len ≤ s.cfg.ibufBytes → s.len = s.k * s.m →
    s.mram.wf →
    ∃ t, exec .loadMatrix s = .next t ∧ EndedWith s t .noError 0 0 0xFFFFFFFF ∧ KeptByCommand s t ∧
      ScratchKept s t ∧ t.mvalid = true ∧ t.obuf = s.obuf ∧ t.entropy = s.entropy ∧
      (∀ i < s.k, ∀ j < s.m, t.mram.read (i * s.m + j) = s.ibuf.read (i * s.m + j)) ∧
      ∀ a, s.k * s.m ≤ a → t.mram.read a = s.mram.read a

/-- 40 R112: LOAD_MATRIX's errors in their order, each without any other effect. -/
def Obligations.LoadMatrixErrors : Prop :=
  ∀ s : State,
    (s.mvalid = true → ∃ t, exec .loadMatrix s = .next t ∧ RaisedOnly s t .matrixLocked) ∧
    (s.mvalid = false → ¬ ValidKM s.cfg s.k s.m →
      ∃ t, exec .loadMatrix s = .next t ∧ RaisedOnly s t .invalidParameters) ∧
    (s.mvalid = false → ValidKM s.cfg s.k s.m → s.cfg.ibufBytes < s.len →
      ∃ t, exec .loadMatrix s = .next t ∧ RaisedOnly s t .capacityExceeded) ∧
    (s.mvalid = false → ValidKM s.cfg s.k s.m → s.len ≤ s.cfg.ibufBytes → s.len ≠ s.k * s.m →
      ∃ t, exec .loadMatrix s = .next t ∧ RaisedOnly s t .invalidBlockSize)

/-- 40 R113: EXPORT_MATRIX copies the matrix to OBUF row-major; its errors, in their order, have no other effect. -/
def Obligations.ExportMatrixCopies : Prop :=
  ∀ s : State,
    (s.mvalid = false → ∃ t, exec .exportMatrix s = .next t ∧ RaisedOnly s t .noMatrix) ∧
    (s.mvalid = true → s.cfg.obufBytes < s.k * s.m →
      ∃ t, exec .exportMatrix s = .next t ∧ RaisedOnly s t .capacityExceeded) ∧
    (s.mvalid = true → s.k * s.m ≤ s.cfg.obufBytes → s.cfg.WellFormed → s.obuf.wf →
      ∃ t, exec .exportMatrix s = .next t ∧ EndedWith s t .noError (s.k * s.m) 0 0xFFFFFFFF ∧
        KeptByCommand s t ∧ ScratchKept s t ∧ t.mram = s.mram ∧ t.mvalid = true ∧ t.entropy = s.entropy ∧
        (∀ i < s.k, ∀ j < s.m, t.obuf.read (i * s.m + j) = s.mram.read (i * s.m + j)) ∧
        ∀ a, s.k * s.m ≤ a → t.obuf.read a = s.obuf.read a)

/-- 40 R114: CLEAR_MATRIX always completes with no error, zeroes MRAM and ends the instance; after it the readers of
the matrix raise NoMatrix and PARAM_K and PARAM_M are writable. -/
def Obligations.ClearMatrixEndsInstance : Prop :=
  ∀ s : State, ∃ t, exec .clearMatrix s = .next t ∧ EndedWith s t .noError 0 0 0xFFFFFFFF ∧ KeptByCommand s t ∧
    ScratchKept s t ∧ t.mvalid = false ∧ (∀ a, t.mram.read a = 0) ∧ t.obuf = s.obuf ∧ t.entropy = s.entropy ∧
    (∀ i, i = .exportMatrix ∨ i = .encode ∨ i = .decode → ∃ u, exec i t = .next u ∧ RaisedOnly t u .noMatrix) ∧
    ∀ v, (t.hostAccess (.write 0x014 4 v)).paramK = v ∧ (t.hostAccess (.write 0x018 4 v)).paramM = v

/-- 40 R113 (its derived corner case): a block that loads the exported bytes with the same `k` and `m` holds the
same matrix. -/
def Obligations.ExportThenLoadTransfers : Prop :=
  ∀ s t u : State, exec .exportMatrix s = .next t → t.err = .noError → s.obuf.wf →
    u.mvalid = false → u.paramK = s.paramK → u.paramM = s.paramM → ValidKM u.cfg u.k u.m →
    u.len = u.k * u.m → u.len ≤ u.cfg.ibufBytes → u.mram.wf →
    (∀ a < s.k * s.m, u.ibuf.read a = t.obuf.read a) →
    ∃ v, exec .loadMatrix u = .next v ∧ v.err = .noError ∧ v.mvalid = true ∧ v.matrix = s.matrix

/-- 40 R115, 70 R230: over every step, a matrix that is held before and after is the same matrix with the same
dimensions; ENCODE, DECODE, EXPORT_MATRIX, and GEN_MATRIX and LOAD_MATRIX while a matrix is held, leave MRAM alone; and a
step that changes MRAM is rst, or is itself the completion of CLEAR_MATRIX, or of GEN_MATRIX or LOAD_MATRIX from MVALID =
0. That an empty inbox gives the Core its turn is the model's schedule (log entry 20). -/
def Obligations.HeldMatrixNeverChanges : Prop :=
  (∀ s t : State, step s = .next t → s.mvalid = true → t.mvalid = true →
    t.mram = s.mram ∧ t.paramK = s.paramK ∧ t.paramM = s.paramM) ∧
  (∀ (i : Instr) (s t : State), exec i s = .next t → t.mram ≠ s.mram →
    i = .clearMatrix ∨ ((i = .genMatrix ∨ i = .loadMatrix) ∧ s.mvalid = false ∧ t.mvalid = true)) ∧
  ∀ s t : State, step s = .next t → t.mram ≠ s.mram →
    s.inbox.head? = some .rst ∨
      (s.busy = true ∧ t.busy = false ∧ (s.inbox = [] ∨ s.inbox.head? = some .core) ∧
        (s.cmdw = 0x00000004 ∨
          ((s.cmdw = 0x00000001 ∨ s.cmdw = 0x00000002) ∧ s.mvalid = false ∧ t.mvalid = true)))

/-! ## ENCODE -/

/-- 41 R140: `P[j] = (sum over i of D[i] * M[i][j]) mod 256`, for a data segment of as many bytes as the matrix has
rows. -/
def Obligations.ParityFormula : Prop :=
  ∀ (m : Nat) (data : List Byte) (rows : List (List Byte)), data.length = rows.length →
    (parity m data rows).length = m ∧
    ∀ j < m, (parity m data rows)[j]?.map BitVec.toNat =
      some ((∑ i ∈ Finset.range data.length, (data.getD i 0).toNat * ((rows.getD i []).getD j 0).toNat) % 256)

/-- 41 R141: `Frame(D, M) = D ++ Parity(D, M)`, of length `k + m`, with the data unchanged in front. -/
def Obligations.FrameIsSystematic : Prop :=
  ∀ (m : Nat) (data : List Byte) (rows : List (List Byte)),
    (frame m data rows).length = data.length + m ∧ (frame m data rows).take data.length = data ∧
    (frame m data rows).drop data.length = parity m data rows

/-- 41 R142, 20 R71: ENCODE writes Framed Block `i` at `OBUF[i*(k+m)]`: the Data Segment, then the parity bytes; no
byte of OBUF beyond the output changes. -/
def Obligations.EncodeWritesFrames : Prop :=
  ∀ s : State, let n := s.len / s.k
    s.mvalid = true → s.len ≤ s.cfg.ibufBytes → s.len % s.k = 0 → n * (s.k + s.m) ≤ s.cfg.obufBytes →
    s.cfg.WellFormed → s.obuf.wf →
    ∃ t, exec .encode s = .next t ∧ EndedWith s t .noError (n * (s.k + s.m)) n 0xFFFFFFFF ∧ KeptByCommand s t ∧
      ScratchKept s t ∧ t.mram = s.mram ∧ t.mvalid = true ∧ t.entropy = s.entropy ∧
      (∀ i < n, ∀ x < s.k, t.obuf.read (i * (s.k + s.m) + x) = s.ibuf.read (i * s.k + x)) ∧
      (∀ i < n, ∀ j < s.m, (t.obuf.read (i * (s.k + s.m) + s.k + j)).toNat =
        (∑ x ∈ Finset.range s.k, (s.ibuf.read (i * s.k + x)).toNat * (s.mram.read (x * s.m + j)).toNat) % 256) ∧
      ∀ a, n * (s.k + s.m) ≤ a → t.obuf.read a = s.obuf.read a

/-- 41 R142: ENCODE's errors in their order, each without any other effect. -/
def Obligations.EncodeErrors : Prop :=
  ∀ s : State,
    (s.mvalid = false → ∃ t, exec .encode s = .next t ∧ RaisedOnly s t .noMatrix) ∧
    (s.mvalid = true → s.cfg.ibufBytes < s.len →
      ∃ t, exec .encode s = .next t ∧ RaisedOnly s t .capacityExceeded) ∧
    (s.mvalid = true → s.len ≤ s.cfg.ibufBytes → s.len % s.k ≠ 0 →
      ∃ t, exec .encode s = .next t ∧ RaisedOnly s t .invalidBlockSize) ∧
    (s.mvalid = true → s.len ≤ s.cfg.ibufBytes → s.len % s.k = 0 →
      s.cfg.obufBytes < s.len / s.k * (s.k + s.m) →
      ∃ t, exec .encode s = .next t ∧ RaisedOnly s t .capacityExceeded)

/-- 41 R143, 20 R70: ENCODE's outcome and its output bytes are a function of `k`, `m`, the matrix and
`IBUF[0, IN_LEN)` alone. -/
def Obligations.EncodeReadsOnlyItsInputs : Prop :=
  ∀ s u t v : State, u.cfg = s.cfg → u.mvalid = s.mvalid → u.paramK = s.paramK → u.paramM = s.paramM →
    u.inLen = s.inLen → (∀ a < s.k * s.m, u.mram.read a = s.mram.read a) →
    (∀ a < s.len, u.ibuf.read a = s.ibuf.read a) → s.obuf.wf → u.obuf.wf →
    exec .encode s = .next t → exec .encode u = .next v →
    v.err = t.err ∧ v.outLen = t.outLen ∧ v.blkOut = t.blkOut ∧ v.failIndex = t.failIndex ∧
      ∀ a < t.outLen.toNat, v.obuf.read a = t.obuf.read a

/-! ## DECODE -/

/-- 42 R162, R163: the gate's elimination decides exactly whether an inverse modulo 256 exists. -/
def Obligations.GateDecidesInvertibility : Prop :=
  ∀ (k : Nat) (rows : List (List Byte)), rows.length = k → (∀ r ∈ rows, r.length = k) →
    (eliminates k rows = true ↔ Invertible256 k rows)

/-- 42 R162 (its facts from general knowledge): an inverse exists exactly when the integer determinant is odd, and
then it is unique and two-sided. -/
def Obligations.InvertibleWhenDeterminantOdd : Prop :=
  ∀ (k : Nat) (rows : List (List Byte)), rows.length = k → (∀ r ∈ rows, r.length = k) →
    (eliminates k rows = true ↔ Odd ((byteMatrix k rows).map fun b : Byte => (b.toNat : ℤ)).det) ∧
    (eliminates k rows = true → ∃! b : Matrix (Fin k) (Fin k) Byte,
      byteMatrix k rows * b = 1 ∧ b * byteMatrix k rows = 1)

/-- 42 R161: a matrix with fewer columns than rows, padded with columns of zeros, has no inverse and the gate refuses
it. -/
def Obligations.PaddedMatrixSingular : Prop :=
  ∀ (k m : Nat) (rows : List (List Byte)), m < k → rows.length = k → (∀ r ∈ rows, r.length = m) →
    let padded := rows.map fun r => r ++ List.replicate (k - m) 0
    ¬ Invertible256 k padded ∧ eliminates k padded = false

/-- 42 R164, R165: the candidate is `D xor (Parity(D,M) xor P)` byte by byte, and it equals `D` exactly when the
stored parity is the parity of the stored data. -/
def Obligations.CandidateEqualsDataIff : Prop :=
  ∀ (k : Nat) (data stored : List Byte) (rows : List (List Byte)), data.length = k → stored.length = k →
    rows.length = k →
    (∀ j < k, (candidate k data stored rows).getD j 0 =
      data.getD j 0 ^^^ ((parity k data rows).getD j 0 ^^^ stored.getD j 0)) ∧
    (candidate k data stored rows = data ↔ stored = parity k data rows)

/-- 42 R166: the verifier reports match on block `i` exactly when the digests of `D_i` and `C_i` are equal, whatever
the digest function is. -/
def Obligations.VerifierComparesDigests : Prop :=
  ∀ (s : State) (i : Nat), s.blockMatches i = true ↔
    Config.digest s.cfg.digestId (s.blockData i) = Config.digest s.cfg.digestId (s.blockCandidate i)

/-- 42 R167, 20 R73: when the sizes fit, the matrix passes the gate and every block's stored parity is the parity of
its data, DECODE returns the Data Segments in order; no byte of OBUF beyond the output changes. -/
def Obligations.DecodeReturnsSegments : Prop :=
  ∀ s : State, s.mvalid = true → s.n ≤ s.cfg.nMax → s.len ≤ s.cfg.ibufBytes →
    (∀ i < s.n, (s.bltEntry i).toNat = s.k + s.m) → s.len = s.n * (s.k + s.m) → s.n * s.k ≤ s.cfg.obufBytes →
    s.m = s.k → Invertible256 s.k s.matrix → s.cfg.WellFormed → s.obuf.wf →
    (∀ i < s.n, ∀ j < s.m, (s.ibuf.read (i * (s.k + s.m) + s.k + j)).toNat =
      (∑ x ∈ Finset.range s.k,
        (s.ibuf.read (i * (s.k + s.m) + x)).toNat * (s.mram.read (x * s.m + j)).toNat) % 256) →
    ∃ t, exec .decode s = .next t ∧ EndedWith s t .noError (s.n * s.k) s.n 0xFFFFFFFF ∧ KeptByCommand s t ∧
      t.mram = s.mram ∧ t.mvalid = true ∧ t.entropy = s.entropy ∧
      (∀ i < s.n, ∀ x < s.k, t.obuf.read (i * s.k + x) = s.ibuf.read (i * (s.k + s.m) + x)) ∧
      ∀ a, s.n * s.k ≤ a → t.obuf.read a = s.obuf.read a

/-- 42 R167, R166: when the sizes fit and the matrix passes the gate, the digests alone decide: DECODE completes when
they agree on every block, and otherwise ends in IntegrityFailure at the first block on which they disagree. -/
def Obligations.DecodeVerdictByDigests : Prop :=
  ∀ s : State, s.mvalid = true → s.n ≤ s.cfg.nMax → s.len ≤ s.cfg.ibufBytes →
    (∀ i < s.n, (s.bltEntry i).toNat = s.k + s.m) → s.len = s.n * (s.k + s.m) → s.n * s.k ≤ s.cfg.obufBytes →
    s.m = s.k → Invertible256 s.k s.matrix → s.cfg.WellFormed → s.obuf.wf →
    let agree := fun i => Config.digest s.cfg.digestId (s.blockData i) =
      Config.digest s.cfg.digestId (s.blockCandidate i)
    ∃ t, exec .decode s = .next t ∧ KeptByCommand s t ∧ t.mram = s.mram ∧ t.mvalid = true ∧
      t.entropy = s.entropy ∧
      (((∀ i < s.n, agree i) ∧ EndedWith s t .noError (s.n * s.k) s.n 0xFFFFFFFF ∧
          (∀ i < s.n, ∀ x < s.k, t.obuf.read (i * s.k + x) = s.ibuf.read (i * (s.k + s.m) + x)) ∧
          ∀ a, s.n * s.k ≤ a → t.obuf.read a = s.obuf.read a) ∨
       ∃ i < s.n, ¬ agree i ∧ (∀ j < i, agree j) ∧ t.obuf = s.obuf ∧
          EndedWith s t .integrityFailure 0 0 (BitVec.ofNat 32 i))

/-- 42 R167, R161: DECODE's errors before the blocks, in their order, each without an effect on an output. -/
def Obligations.DecodeErrors : Prop :=
  ∀ s : State,
    (s.mvalid = false → ∃ t, exec .decode s = .next t ∧ RaisedOnly s t .noMatrix) ∧
    (s.mvalid = true → s.cfg.nMax < s.n ∨ s.cfg.ibufBytes < s.len →
      ∃ t, exec .decode s = .next t ∧ RaisedOnly s t .capacityExceeded) ∧
    (s.mvalid = true → s.n ≤ s.cfg.nMax → s.len ≤ s.cfg.ibufBytes →
      ((∃ i < s.n, (s.bltEntry i).toNat ≠ s.k + s.m) ∨ s.len ≠ s.n * (s.k + s.m) →
        ∃ t, exec .decode s = .next t ∧ RaisedOnly s t .invalidBlockSize) ∧
      ((∀ i < s.n, (s.bltEntry i).toNat = s.k + s.m) → s.len = s.n * (s.k + s.m) →
        (s.cfg.obufBytes < s.n * s.k →
          ∃ t, exec .decode s = .next t ∧ RaisedOnly s t .capacityExceeded) ∧
        (s.n * s.k ≤ s.cfg.obufBytes → s.m ≠ s.k →
          ∃ t, exec .decode s = .next t ∧ RaisedOnly s t .matrixNotInvertible) ∧
        (s.n * s.k ≤ s.cfg.obufBytes → s.m = s.k → ¬ Invertible256 s.k s.matrix →
          ∃ t, exec .decode s = .next t ∧ EndedWith s t .matrixNotInvertible 0 0 0xFFFFFFFF ∧
            KeptByCommand s t ∧ OutputsKept s t)))

/-- 42 R168, 60 R200: OBUF is written only when every block has matched, and a DECODE that ends in any error leaves
everything unchanged but the completion fields. Two exemptions are the model's reading: WRAM, which no host access or
command shows, is no output, and the counter of free draws is the model's own (log entry 10); and CMDW keeps its word
(log entry 7). -/
def Obligations.DecodeAllOrNothing : Prop :=
  ∀ s t : State, exec .decode s = .next t →
    (t.obuf ≠ s.obuf → t.err = .noError ∧ ∀ i < s.n, s.blockMatches i = true) ∧
    (t.err ≠ .noError →
      t = { s with err := t.err, busy := false, outLen := 0, blkOut := 0, failIndex := t.failIndex,
                   intStatus := s.intStatus ||| 3, wram := t.wram, free := t.free })

/-- 20 R70: DECODE's outcome and its output bytes depend only on `k`, `m`, `n`, `BLT[0, n)`, `IBUF[0, IN_LEN)` and the
matrix. -/
def Obligations.DecodeReadsOnlyItsInputs : Prop :=
  ∀ s u t v : State, u.cfg = s.cfg → u.mvalid = s.mvalid → u.paramK = s.paramK → u.paramM = s.paramM →
    u.inLen = s.inLen → u.blkN = s.blkN → (∀ i < s.n, u.bltEntry i = s.bltEntry i) →
    (∀ a < s.k * s.m, u.mram.read a = s.mram.read a) → (∀ a < s.len, u.ibuf.read a = s.ibuf.read a) →
    s.obuf.wf → u.obuf.wf → exec .decode s = .next t → exec .decode u = .next v →
    v.err = t.err ∧ v.outLen = t.outLen ∧ v.blkOut = t.blkOut ∧ v.failIndex = t.failIndex ∧
      ∀ a < t.outLen.toNat, v.obuf.read a = t.obuf.read a

/-- 42 R169: with `m = k` and an invertible matrix, DECODE of ENCODE's unaltered output returns the data, whatever
the digest function is. The decoding block `d` may be another one that holds the same matrix. -/
def Obligations.DecodeOfEncodedDataReturnsIt : Prop :=
  ∀ s t d : State, let n := s.len / s.k
    exec .encode s = .next t → t.err = .noError → s.m = s.k → Invertible256 s.k s.matrix → s.obuf.wf →
    d.mvalid = true → d.paramK = s.paramK → d.paramM = s.paramM →
    (∀ a < s.k * s.m, d.mram.read a = s.mram.read a) →
    (∀ a < n * (s.k + s.m), d.ibuf.read a = t.obuf.read a) →
    d.n = n → (∀ i < n, (d.bltEntry i).toNat = s.k + s.m) → d.len = n * (s.k + s.m) →
    n ≤ d.cfg.nMax → d.len ≤ d.cfg.ibufBytes → n * s.k ≤ d.cfg.obufBytes → d.obuf.wf →
    ∃ u, exec .decode d = .next u ∧ u.err = .noError ∧ ∀ a < n * s.k, u.obuf.read a = s.ibuf.read a

/-- 42 R170: with `m = k` and an invertible matrix, changing bytes of a consistent block's parity alone, or of its
data alone, makes the candidate differ from the data; DECODE of sizes that fit then ends in IntegrityFailure, with OBUF
unchanged, unless the two digests collide. -/
def Obligations.TamperingDetected : Prop :=
  ∀ (s u : State) (i : Nat), s.m = s.k → Invertible256 s.k s.matrix →
    s.blockParity i = parity s.m (s.blockData i) s.matrix →
    u.paramK = s.paramK → u.paramM = s.paramM → u.matrix = s.matrix →
    (u.blockData i = s.blockData i ∧ u.blockParity i ≠ s.blockParity i) ∨
      (u.blockParity i = s.blockParity i ∧ u.blockData i ≠ s.blockData i) →
    u.blockCandidate i ≠ u.blockData i ∧
    (u.mvalid = true → i < u.n → u.n ≤ u.cfg.nMax → u.len ≤ u.cfg.ibufBytes →
      (∀ b < u.n, (u.bltEntry b).toNat = u.k + u.m) → u.len = u.n * (u.k + u.m) → u.n * u.k ≤ u.cfg.obufBytes →
      ∃ t, exec .decode u = .next t ∧
        (Config.digest u.cfg.digestId (u.blockData i) = Config.digest u.cfg.digestId (u.blockCandidate i) ∨
          (t.err = .integrityFailure ∧ t.failIndex.toNat ≤ i ∧ t.obuf = u.obuf)))

/-! ## Completion, errors, stores, reset -/

/-- 60 R200: the completion step: BUSY falls, CMD_DONE and on an error CMD_ERR are set, the result registers follow
the outcome, an error writes no output, and the registers the rule names are not written. A GEN_MATRIX that waits for
entropy has not completed (60 R211). -/
def Obligations.CompletionStep : Prop :=
  ∀ s t : State, s.busy = true → coreTurn s = .next t →
    (t = s ∧ s.cmdw = 0x00000001 ∧ s.entropy.length < s.k * s.m) ∨
    (t.busy = false ∧ KeptByCommand s t ∧
      t.intStatus.getLsbD 0 = true ∧
      (t.intStatus.getLsbD 1 = true ↔ s.intStatus.getLsbD 1 = true ∨ t.err ≠ .noError) ∧
      t.intStatus.getLsbD 2 = s.intStatus.getLsbD 2 ∧
      (t.err ≠ .noError → OutputsKept s t ∧ t.outLen = 0 ∧ t.blkOut = 0) ∧
      (t.err ≠ .integrityFailure → t.failIndex = 0xFFFFFFFF) ∧
      (t.err = .integrityFailure → s.cmdw = 0x00000020 ∧ ∃ i < s.n, t.failIndex = BitVec.ofNat 32 i ∧
        s.blockMatches i = false ∧ ∀ j < i, s.blockMatches j = true))

/-- 60 R201: the codes 0 to 8, and which command can end with which. -/
def Obligations.ErrorCodes : Prop :=
  [ErrCode.noError, .invalidParameters, .invalidBlockSize, .matrixNotInvertible, .integrityFailure, .noMatrix,
    .matrixLocked, .capacityExceeded, .illegalCommand].map ErrCode.code = [0, 1, 2, 3, 4, 5, 6, 7, 8] ∧
  (∀ s t : State, exec .genMatrix s = .next t →
    t = s ∨ t.err = .noError ∨ t.err = .invalidParameters ∨ t.err = .matrixLocked) ∧
  (∀ s t : State, exec .loadMatrix s = .next t → t.err = .noError ∨ t.err = .invalidParameters ∨
    t.err = .invalidBlockSize ∨ t.err = .matrixLocked ∨ t.err = .capacityExceeded) ∧
  (∀ s t : State, exec .exportMatrix s = .next t →
    t.err = .noError ∨ t.err = .noMatrix ∨ t.err = .capacityExceeded) ∧
  (∀ s t : State, exec .clearMatrix s = .next t → t.err = .noError) ∧
  (∀ s t : State, exec .encode s = .next t →
    t.err = .noError ∨ t.err = .invalidBlockSize ∨ t.err = .noMatrix ∨ t.err = .capacityExceeded) ∧
  ∀ s t : State, exec .decode s = .next t → t.err = .noError ∨ t.err = .invalidBlockSize ∨
    t.err = .matrixNotInvertible ∨ t.err = .integrityFailure ∨ t.err = .noMatrix ∨ t.err = .capacityExceeded

/-- 20 R70, 10 R36, R39: the frame of the six commands over the stores: what each may write, and that no byte of OBUF
at or beyond OUT_LEN changes. -/
def Obligations.CommandFrames : Prop :=
  ∀ (i : Instr) (s t : State), exec i s = .next t →
    (t = s ∨ KeptByCommand s t) ∧
    (i = .genMatrix ∨ i = .loadMatrix ∨ i = .clearMatrix → t.obuf = s.obuf) ∧
    (i = .exportMatrix ∨ i = .encode ∨ i = .decode → t.mram = s.mram ∧ t.mvalid = s.mvalid) ∧
    (i ≠ .genMatrix → t.entropy = s.entropy) ∧
    (i ≠ .decode → ScratchKept s t) ∧
    (s.cfg.WellFormed → ∀ a, t.outLen.toNat ≤ a → t ≠ s → t.obuf.read a = s.obuf.read a)

/-- 10 R36, R37: while MVALID is 0 nothing shows MRAM's contents, and nothing ever shows WRAM's. Over every step (host
accesses, the Core's turn, rst, entropy) and over every command by itself: from a state with other contents there the
next state is the same but for that store's contents. -/
def Obligations.InternalStoresUnobservable : Prop :=
  (∀ (s t : State) (w : Memory), step s = .next t →
    (∃ w', step { s with wram := w } = .next { t with wram := w' }) ∧
    (s.mvalid = false → ∀ r : Memory, ∃ r', step { s with mram := r } = .next { t with mram := r' })) ∧
  ∀ (i : Instr) (s t : State) (w : Memory), exec i s = .next t →
    (∃ w', exec i { s with wram := w } = .next { t with wram := w' }) ∧
    (s.mvalid = false → ∀ r : Memory, ∃ r', exec i { s with mram := r } = .next { t with mram := r' })

/-- 20 R84: nothing in the block's behaviour depends on BASE. -/
def Obligations.BaseHasNoEffect : Prop :=
  ∀ (s t : State) (b : Nat), step s = .next t →
    step { s with cfg := { s.cfg with base := b } } = .next { t with cfg := { t.cfg with base := b } }

/-- 70 R230, R231: `rst` puts every register at its reset value whatever the block was doing, with no CMD_DONE for
a command in flight; the five stores hold fresh free values; the parameters stay. -/
def Obligations.ResetRestoresEverything : Prop :=
  ∀ (s : State) (rest : List Input), s.inbox = .rst :: rest → ∃ t, step s = .next t ∧
    t.busy = false ∧ t.mvalid = false ∧ t.err = .noError ∧ t.lastCmd = 0 ∧ t.intStatus = 0 ∧ t.intEnable = 0 ∧
    t.paramK = 0 ∧ t.paramM = 0 ∧ t.inLen = 0 ∧ t.blkN = 0 ∧ t.outLen = 0 ∧ t.blkOut = 0 ∧
    t.failIndex = 0xFFFFFFFF ∧ t.irq = false ∧ t.cfg = s.cfg ∧ t.inbox = rest ∧
    ∀ a, t.mram.read a = Config.freeByte s.free a ∧ t.wram.read a = Config.freeByte (s.free + 1) a ∧
      t.ibuf.read a = Config.freeByte (s.free + 2) a ∧ t.obuf.read a = Config.freeByte (s.free + 3) a ∧
      t.blt.read a = Config.freeByte (s.free + 4) a

/-- 70 R232, R233: what a Host reads right after reset, and that the block then waits. -/
def Obligations.StateAfterReset : Prop :=
  State.reset.readReg .id = 0x53454301 ∧ State.reset.readReg .status = 0 ∧ State.reset.readReg .intStatus = 0 ∧
  State.reset.readReg .intEnable = 0 ∧ State.reset.readReg .paramK = 0 ∧ State.reset.readReg .paramM = 0 ∧
  State.reset.readReg .inLen = 0 ∧ State.reset.readReg .blkN = 0 ∧ State.reset.readReg .outLen = 0 ∧
  State.reset.readReg .blkOut = 0 ∧ State.reset.readReg .failIndex = 0xFFFFFFFF ∧
  State.reset.irq = false ∧ step State.reset = .next State.reset

/-! ## The invariant -/

/-- Every step keeps the invariant of Safety.lean: legal parameters, valid dimensions of a held matrix (40 R110,
R115), stores in canonical form inside their capacities, ERR and LAST_CMD while BUSY (10 R23), FAIL_INDEX (10 R33) and
the lengths after an error (10 R31, R32). -/
def Obligations.InvariantKept : Prop :=
  ∀ s t : State, Inv s → step s = .next t → Inv t

/-- The invariant holds after reset. -/
def Obligations.InvariantAtReset : Prop := Inv State.reset
end

