-- ==== Sys2Proof/Laws/Memory.lean ====
section
/-! SUPPORT. The laws of a store: what a write changes and leaves alone, for one byte and for a byte string, and that
every operation keeps the canonical form. -/

namespace Sys2Proof.Machine

/-! ## One byte -/

@[simp] theorem lookupCell_insertCell_same (cells : List Host.Cell) (a : Nat) (b : Byte) :
    lookupCell (insertCell a b cells) a = some b := by
  induction cells with
  | nil => simp [insertCell, lookupCell]
  | cons c rest ih =>
    obtain ⟨c, x⟩ := c
    simp only [insertCell]
    split
    · simp [lookupCell]
    · split
      · simp [lookupCell]
      · simp [lookupCell, *]

theorem lookupCell_insertCell_other (cells : List Host.Cell) (a : Nat) (b : Byte) {x : Nat} (h : x ≠ a) :
    lookupCell (insertCell a b cells) x = lookupCell cells x := by
  induction cells with
  | nil => simp [insertCell, lookupCell, h]
  | cons c rest ih =>
    obtain ⟨c, y⟩ := c
    simp only [insertCell]
    split
    · simp [lookupCell, h]
    · split
      · next hac => subst hac; simp [lookupCell, h]
      · simp [lookupCell, ih]

theorem lookupCell_eraseCell_other (cells : List Host.Cell) (a : Nat) {x : Nat} (h : x ≠ a) :
    lookupCell (eraseCell a cells) x = lookupCell cells x := by
  induction cells with
  | nil => rfl
  | cons c rest ih =>
    obtain ⟨c, y⟩ := c
    simp only [eraseCell]
    split
    · next hac => subst hac; simp [lookupCell, h]
    · simp [lookupCell, ih]

/-- Below the first listed address nothing is listed. -/
theorem lookupCell_eq_none_of_lt {cells : List Host.Cell} {a : Nat} (h : ∀ c ∈ cells, a < c.1) :
    lookupCell cells a = none := by
  induction cells with
  | nil => rfl
  | cons c rest ih =>
    obtain ⟨c, y⟩ := c
    have hc : a < c := h (c, y) (by simp)
    have hne : a ≠ c := by omega
    simp only [lookupCell, hne, if_false]
    exact ih fun d hd => h d (by simp [hd])

theorem lookupCell_eraseCell_same {cells : List Host.Cell} (a : Nat)
    (h : cells.Pairwise fun c d => c.1 < d.1) : lookupCell (eraseCell a cells) a = none := by
  induction cells with
  | nil => rfl
  | cons c rest ih =>
    obtain ⟨c, y⟩ := c
    rw [List.pairwise_cons] at h
    simp only [eraseCell]
    split
    · next hac => subst hac; exact lookupCell_eq_none_of_lt h.1
    · next hac => simp [lookupCell, hac, ih h.2]

/-- A write leaves every other byte alone. -/
theorem Memory.read_write_other (m : Memory) (a : Nat) (b : Byte) {x : Nat} (h : x ≠ a) :
    (m.write a b).read x = m.read x := by
  unfold Memory.write
  split
  · simp [Memory.read, lookupCell_eraseCell_other _ _ h]
  · simp [Memory.read, lookupCell_insertCell_other _ _ _ h]

/-- A read after a write to the same byte gives the value written. -/
theorem Memory.read_write_same (m : Memory) (hm : m.wf) (a : Nat) (b : Byte) : (m.write a b).read a = b := by
  unfold Memory.write
  split
  · next hf => simp [Memory.read, lookupCell_eraseCell_same a hm.1, hf, Fill.byteAt]
  · simp [Memory.read]

theorem Memory.write_fill (m : Memory) (a : Nat) (b : Byte) : (m.write a b).fill = m.fill := by
  unfold Memory.write
  split <;> rfl

/-! ## The canonical form -/

theorem mem_insertCell {a : Nat} {b : Byte} {cells : List Host.Cell} {c : Host.Cell}
    (h : c ∈ insertCell a b cells) : c = (a, b) ∨ c ∈ cells := by
  induction cells with
  | nil => simpa [insertCell] using h
  | cons d rest ih =>
    obtain ⟨d, y⟩ := d
    simp only [insertCell] at h
    split at h
    · simpa using h
    · split at h
      · rcases List.mem_cons.1 h with h | h
        · exact .inl h
        · exact .inr (by simp [h])
      · rcases List.mem_cons.1 h with h | h
        · exact .inr (by simp [h])
        · rcases ih h with h | h
          · exact .inl h
          · exact .inr (by simp [h])

theorem mem_of_mem_eraseCell {a : Nat} {cells : List Host.Cell} {c : Host.Cell} (h : c ∈ eraseCell a cells) :
    c ∈ cells := by
  induction cells with
  | nil => exact h
  | cons d rest ih =>
    obtain ⟨d, y⟩ := d
    simp only [eraseCell] at h
    split at h
    · simp [h]
    · rcases List.mem_cons.1 h with h | h
      · simp [h]
      · simp [ih h]

theorem insertCell_rising (a : Nat) (b : Byte) {cells : List Host.Cell}
    (h : cells.Pairwise fun c d => c.1 < d.1) : (insertCell a b cells).Pairwise fun c d => c.1 < d.1 := by
  induction cells with
  | nil => simp [insertCell]
  | cons c rest ih =>
    obtain ⟨c, y⟩ := c
    rw [List.pairwise_cons] at h
    simp only [insertCell]
    split
    · next hac =>
      refine List.pairwise_cons.2 ⟨fun d hd => ?_, List.pairwise_cons.2 h⟩
      rcases List.mem_cons.1 hd with rfl | hd
      · exact hac
      · have := h.1 d hd
        simp only at this ⊢
        omega
    · split
      · next hac => subst hac; exact List.pairwise_cons.2 h
      · refine List.pairwise_cons.2 ⟨fun d hd => ?_, ih h.2⟩
        rcases mem_insertCell hd with rfl | hd
        · simp only; omega
        · exact h.1 d hd

theorem eraseCell_rising (a : Nat) {cells : List Host.Cell} (h : cells.Pairwise fun c d => c.1 < d.1) :
    (eraseCell a cells).Pairwise fun c d => c.1 < d.1 := by
  induction cells with
  | nil => exact h
  | cons c rest ih =>
    obtain ⟨c, y⟩ := c
    rw [List.pairwise_cons] at h
    simp only [eraseCell]
    split
    · exact h.2
    · exact List.pairwise_cons.2 ⟨fun d hd => h.1 d (mem_of_mem_eraseCell hd), ih h.2⟩

/-- A write keeps the canonical form. -/
theorem Memory.write_wf {m : Memory} (hm : m.wf) (a : Nat) (b : Byte) : (m.write a b).wf := by
  unfold Memory.write
  split
  · exact ⟨eraseCell_rising a hm.1, fun c hc => hm.2 c (mem_of_mem_eraseCell hc)⟩
  · next hf =>
    refine ⟨insertCell_rising a b hm.1, fun c hc => ?_⟩
    rcases mem_insertCell hc with rfl | hc
    · exact hf
    · exact hm.2 c hc

/-- A write below the capacity keeps the store inside it. -/
theorem Memory.write_within {m : Memory} {capacity a : Nat} (hm : m.within capacity) (ha : a < capacity) (b : Byte) :
    (m.write a b).within capacity := by
  unfold Memory.write
  split
  · exact fun c hc => hm c (mem_of_mem_eraseCell hc)
  · intro c hc
    rcases mem_insertCell hc with rfl | hc
    · exact ha
    · exact hm c hc

theorem Memory.unknown_wf (draw : Nat) : (Memory.unknown draw).wf := by
  constructor <;> simp [Memory.unknown]

theorem Memory.filled_wf (b : Byte) : (Memory.filled b).wf := by
  constructor <;> simp [Memory.filled]

theorem Memory.unknown_within (draw capacity : Nat) : (Memory.unknown draw).within capacity := by
  simp [Memory.unknown]

theorem Memory.filled_within (b : Byte) (capacity : Nat) : (Memory.filled b).within capacity := by
  simp [Memory.filled]

@[simp] theorem Memory.read_filled (b : Byte) (a : Nat) : (Memory.filled b).read a = b := rfl

@[simp] theorem Memory.read_unknown (draw a : Nat) : (Memory.unknown draw).read a = Config.freeByte draw a := rfl

/-! ## Byte strings -/

@[simp] theorem Memory.writeBytes_nil (m : Memory) (a : Nat) : m.writeBytes a [] = m := rfl

@[simp] theorem Memory.writeBytes_cons (m : Memory) (a : Nat) (b : Byte) (bs : List Byte) :
    m.writeBytes a (b :: bs) = (m.write a b).writeBytes (a + 1) bs := rfl

@[simp] theorem Memory.writeBytes_fill (m : Memory) (a : Nat) (bs : List Byte) :
    (m.writeBytes a bs).fill = m.fill := by
  induction bs generalizing m a with
  | nil => rfl
  | cons b bs ih => simp [ih, Memory.write_fill]

/-- Writing a byte string keeps the canonical form. -/
theorem Memory.writeBytes_wf {m : Memory} (hm : m.wf) (a : Nat) (bs : List Byte) : (m.writeBytes a bs).wf := by
  induction bs generalizing m a with
  | nil => exact hm
  | cons b bs ih => exact ih (Memory.write_wf hm a b) (a + 1)

/-- Writing a byte string that ends inside the capacity keeps the store inside it. -/
theorem Memory.writeBytes_within {m : Memory} {capacity : Nat} (hm : m.within capacity) (a : Nat) (bs : List Byte)
    (h : a + bs.length ≤ capacity) : (m.writeBytes a bs).within capacity := by
  induction bs generalizing m a with
  | nil => exact hm
  | cons b bs ih =>
    simp only [List.length_cons] at h
    exact ih (Memory.write_within hm (by omega) b) (a + 1) (by omega)

/-- Writing a byte string leaves every byte outside it alone. -/
theorem Memory.read_writeBytes_outside (m : Memory) (a : Nat) (bs : List Byte) {x : Nat}
    (h : x < a ∨ a + bs.length ≤ x) : (m.writeBytes a bs).read x = m.read x := by
  induction bs generalizing m a with
  | nil => rfl
  | cons b bs ih =>
    simp only [List.length_cons] at h
    rw [Memory.writeBytes_cons, ih _ _ (by omega), Memory.read_write_other _ _ _ (by omega)]

/-- A byte read inside a written byte string is the string's byte. -/
theorem Memory.read_writeBytes_inside {m : Memory} (hm : m.wf) (a : Nat) (bs : List Byte) {t : Nat}
    (h : t < bs.length) : (m.writeBytes a bs).read (a + t) = bs[t] := by
  induction bs generalizing m a t with
  | nil => simp at h
  | cons b bs ih =>
    rw [Memory.writeBytes_cons]
    cases t with
    | zero =>
      rw [Memory.read_writeBytes_outside _ _ _ (.inl (by omega))]
      exact Memory.read_write_same m hm a b
    | succ t =>
      have := ih (Memory.write_wf hm a b) (a + 1) (t := t) (by simpa using h)
      rw [show a + (t + 1) = a + 1 + t by omega, this]
      rfl

@[simp] theorem Memory.readBytes_length (m : Memory) (a n : Nat) : (m.readBytes a n).length = n := by
  simp [Memory.readBytes]

@[simp] theorem Memory.readBytes_getElem (m : Memory) (a n t : Nat) (h : t < (m.readBytes a n).length) :
    (m.readBytes a n)[t] = m.read (a + t) := by
  simp [Memory.readBytes]

/-- Reading a byte string depends on its bytes alone. -/
theorem Memory.readBytes_congr {m m' : Memory} {a n : Nat} (h : ∀ t < n, m.read (a + t) = m'.read (a + t)) :
    m.readBytes a n = m'.readBytes a n := by
  simp only [Memory.readBytes]
  exact List.map_congr_left fun t ht => h t (List.mem_range.1 ht)

/-- Reading back a written byte string. -/
theorem Memory.readBytes_writeBytes {m : Memory} (hm : m.wf) (a : Nat) (bs : List Byte) :
    (m.writeBytes a bs).readBytes a bs.length = bs := by
  apply List.ext_getElem (by simp)
  intro t h _
  simp only [Memory.readBytes_length] at h
  rw [Memory.readBytes_getElem, Memory.read_writeBytes_inside hm a bs h]

end Sys2Proof.Machine
end

