-- ==== Sys2Proof/Laws/State.lean ====
section
/-! SUPPORT. What each update of the state does to each field, one lemma per field and update, each true by rfl. -/

namespace Sys2Proof.Machine

variable (s : State)

/-! ## accept: An accepted command word (10 R23). -/

@[simp] theorem State.accept_cfg (w : Word) : (s.accept w).cfg = s.cfg := rfl
@[simp] theorem State.accept_busy (w : Word) : (s.accept w).busy = true := rfl
@[simp] theorem State.accept_mvalid (w : Word) : (s.accept w).mvalid = s.mvalid := rfl
@[simp] theorem State.accept_err (w : Word) : (s.accept w).err = .noError := rfl
@[simp] theorem State.accept_lastCmd (w : Word) : (s.accept w).lastCmd = opcField w := rfl
@[simp] theorem State.accept_intStatus (w : Word) : (s.accept w).intStatus = s.intStatus := rfl
@[simp] theorem State.accept_intEnable (w : Word) : (s.accept w).intEnable = s.intEnable := rfl
@[simp] theorem State.accept_paramK (w : Word) : (s.accept w).paramK = s.paramK := rfl
@[simp] theorem State.accept_paramM (w : Word) : (s.accept w).paramM = s.paramM := rfl
@[simp] theorem State.accept_inLen (w : Word) : (s.accept w).inLen = s.inLen := rfl
@[simp] theorem State.accept_blkN (w : Word) : (s.accept w).blkN = s.blkN := rfl
@[simp] theorem State.accept_outLen (w : Word) : (s.accept w).outLen = s.outLen := rfl
@[simp] theorem State.accept_blkOut (w : Word) : (s.accept w).blkOut = s.blkOut := rfl
@[simp] theorem State.accept_failIndex (w : Word) : (s.accept w).failIndex = s.failIndex := rfl
@[simp] theorem State.accept_cmdw (w : Word) : (s.accept w).cmdw = w := rfl
@[simp] theorem State.accept_mram (w : Word) : (s.accept w).mram = s.mram := rfl
@[simp] theorem State.accept_wram (w : Word) : (s.accept w).wram = s.wram := rfl
@[simp] theorem State.accept_ibuf (w : Word) : (s.accept w).ibuf = s.ibuf := rfl
@[simp] theorem State.accept_obuf (w : Word) : (s.accept w).obuf = s.obuf := rfl
@[simp] theorem State.accept_blt (w : Word) : (s.accept w).blt = s.blt := rfl
@[simp] theorem State.accept_entropy (w : Word) : (s.accept w).entropy = s.entropy := rfl
@[simp] theorem State.accept_inbox (w : Word) : (s.accept w).inbox = s.inbox := rfl
@[simp] theorem State.accept_response (w : Word) : (s.accept w).response = s.response := rfl
@[simp] theorem State.accept_free (w : Word) : (s.accept w).free = s.free := rfl

/-! ## finish: The completion fields (60 R200). -/

@[simp] theorem State.finish_cfg (e : ErrCode) (l b f : Word) : (s.finish e l b f).cfg = s.cfg := rfl
@[simp] theorem State.finish_busy (e : ErrCode) (l b f : Word) : (s.finish e l b f).busy = false := rfl
@[simp] theorem State.finish_mvalid (e : ErrCode) (l b f : Word) : (s.finish e l b f).mvalid = s.mvalid := rfl
@[simp] theorem State.finish_err (e : ErrCode) (l b f : Word) : (s.finish e l b f).err = e := rfl
@[simp] theorem State.finish_lastCmd (e : ErrCode) (l b f : Word) : (s.finish e l b f).lastCmd = s.lastCmd := rfl
@[simp] theorem State.finish_intStatus (e : ErrCode) (l b f : Word) : (s.finish e l b f).intStatus = s.intStatus ||| completionBits e := rfl
@[simp] theorem State.finish_intEnable (e : ErrCode) (l b f : Word) : (s.finish e l b f).intEnable = s.intEnable := rfl
@[simp] theorem State.finish_paramK (e : ErrCode) (l b f : Word) : (s.finish e l b f).paramK = s.paramK := rfl
@[simp] theorem State.finish_paramM (e : ErrCode) (l b f : Word) : (s.finish e l b f).paramM = s.paramM := rfl
@[simp] theorem State.finish_inLen (e : ErrCode) (l b f : Word) : (s.finish e l b f).inLen = s.inLen := rfl
@[simp] theorem State.finish_blkN (e : ErrCode) (l b f : Word) : (s.finish e l b f).blkN = s.blkN := rfl
@[simp] theorem State.finish_outLen (e : ErrCode) (l b f : Word) : (s.finish e l b f).outLen = l := rfl
@[simp] theorem State.finish_blkOut (e : ErrCode) (l b f : Word) : (s.finish e l b f).blkOut = b := rfl
@[simp] theorem State.finish_failIndex (e : ErrCode) (l b f : Word) : (s.finish e l b f).failIndex = f := rfl
@[simp] theorem State.finish_cmdw (e : ErrCode) (l b f : Word) : (s.finish e l b f).cmdw = s.cmdw := rfl
@[simp] theorem State.finish_mram (e : ErrCode) (l b f : Word) : (s.finish e l b f).mram = s.mram := rfl
@[simp] theorem State.finish_wram (e : ErrCode) (l b f : Word) : (s.finish e l b f).wram = s.wram := rfl
@[simp] theorem State.finish_ibuf (e : ErrCode) (l b f : Word) : (s.finish e l b f).ibuf = s.ibuf := rfl
@[simp] theorem State.finish_obuf (e : ErrCode) (l b f : Word) : (s.finish e l b f).obuf = s.obuf := rfl
@[simp] theorem State.finish_blt (e : ErrCode) (l b f : Word) : (s.finish e l b f).blt = s.blt := rfl
@[simp] theorem State.finish_entropy (e : ErrCode) (l b f : Word) : (s.finish e l b f).entropy = s.entropy := rfl
@[simp] theorem State.finish_inbox (e : ErrCode) (l b f : Word) : (s.finish e l b f).inbox = s.inbox := rfl
@[simp] theorem State.finish_response (e : ErrCode) (l b f : Word) : (s.finish e l b f).response = s.response := rfl
@[simp] theorem State.finish_free (e : ErrCode) (l b f : Word) : (s.finish e l b f).free = s.free := rfl

/-! ## complete: `complete(L, b)` (60 R200). -/

@[simp] theorem State.complete_cfg (l b : Nat) : (s.complete l b).cfg = s.cfg := rfl
@[simp] theorem State.complete_busy (l b : Nat) : (s.complete l b).busy = false := rfl
@[simp] theorem State.complete_mvalid (l b : Nat) : (s.complete l b).mvalid = s.mvalid := rfl
@[simp] theorem State.complete_err (l b : Nat) : (s.complete l b).err = .noError := rfl
@[simp] theorem State.complete_lastCmd (l b : Nat) : (s.complete l b).lastCmd = s.lastCmd := rfl
@[simp] theorem State.complete_intStatus (l b : Nat) : (s.complete l b).intStatus = s.intStatus ||| completionBits .noError := rfl
@[simp] theorem State.complete_intEnable (l b : Nat) : (s.complete l b).intEnable = s.intEnable := rfl
@[simp] theorem State.complete_paramK (l b : Nat) : (s.complete l b).paramK = s.paramK := rfl
@[simp] theorem State.complete_paramM (l b : Nat) : (s.complete l b).paramM = s.paramM := rfl
@[simp] theorem State.complete_inLen (l b : Nat) : (s.complete l b).inLen = s.inLen := rfl
@[simp] theorem State.complete_blkN (l b : Nat) : (s.complete l b).blkN = s.blkN := rfl
@[simp] theorem State.complete_outLen (l b : Nat) : (s.complete l b).outLen = BitVec.ofNat 32 l := rfl
@[simp] theorem State.complete_blkOut (l b : Nat) : (s.complete l b).blkOut = BitVec.ofNat 32 b := rfl
@[simp] theorem State.complete_failIndex (l b : Nat) : (s.complete l b).failIndex = noFailIndex := rfl
@[simp] theorem State.complete_cmdw (l b : Nat) : (s.complete l b).cmdw = s.cmdw := rfl
@[simp] theorem State.complete_mram (l b : Nat) : (s.complete l b).mram = s.mram := rfl
@[simp] theorem State.complete_wram (l b : Nat) : (s.complete l b).wram = s.wram := rfl
@[simp] theorem State.complete_ibuf (l b : Nat) : (s.complete l b).ibuf = s.ibuf := rfl
@[simp] theorem State.complete_obuf (l b : Nat) : (s.complete l b).obuf = s.obuf := rfl
@[simp] theorem State.complete_blt (l b : Nat) : (s.complete l b).blt = s.blt := rfl
@[simp] theorem State.complete_entropy (l b : Nat) : (s.complete l b).entropy = s.entropy := rfl
@[simp] theorem State.complete_inbox (l b : Nat) : (s.complete l b).inbox = s.inbox := rfl
@[simp] theorem State.complete_response (l b : Nat) : (s.complete l b).response = s.response := rfl
@[simp] theorem State.complete_free (l b : Nat) : (s.complete l b).free = s.free := rfl

/-! ## raise: `raise E` (60 R200). -/

@[simp] theorem State.raise_cfg (e : ErrCode) : (s.raise e).cfg = s.cfg := rfl
@[simp] theorem State.raise_busy (e : ErrCode) : (s.raise e).busy = false := rfl
@[simp] theorem State.raise_mvalid (e : ErrCode) : (s.raise e).mvalid = s.mvalid := rfl
@[simp] theorem State.raise_err (e : ErrCode) : (s.raise e).err = e := rfl
@[simp] theorem State.raise_lastCmd (e : ErrCode) : (s.raise e).lastCmd = s.lastCmd := rfl
@[simp] theorem State.raise_intStatus (e : ErrCode) : (s.raise e).intStatus = s.intStatus ||| completionBits e := rfl
@[simp] theorem State.raise_intEnable (e : ErrCode) : (s.raise e).intEnable = s.intEnable := rfl
@[simp] theorem State.raise_paramK (e : ErrCode) : (s.raise e).paramK = s.paramK := rfl
@[simp] theorem State.raise_paramM (e : ErrCode) : (s.raise e).paramM = s.paramM := rfl
@[simp] theorem State.raise_inLen (e : ErrCode) : (s.raise e).inLen = s.inLen := rfl
@[simp] theorem State.raise_blkN (e : ErrCode) : (s.raise e).blkN = s.blkN := rfl
@[simp] theorem State.raise_outLen (e : ErrCode) : (s.raise e).outLen = 0 := rfl
@[simp] theorem State.raise_blkOut (e : ErrCode) : (s.raise e).blkOut = 0 := rfl
@[simp] theorem State.raise_failIndex (e : ErrCode) : (s.raise e).failIndex = noFailIndex := rfl
@[simp] theorem State.raise_cmdw (e : ErrCode) : (s.raise e).cmdw = s.cmdw := rfl
@[simp] theorem State.raise_mram (e : ErrCode) : (s.raise e).mram = s.mram := rfl
@[simp] theorem State.raise_wram (e : ErrCode) : (s.raise e).wram = s.wram := rfl
@[simp] theorem State.raise_ibuf (e : ErrCode) : (s.raise e).ibuf = s.ibuf := rfl
@[simp] theorem State.raise_obuf (e : ErrCode) : (s.raise e).obuf = s.obuf := rfl
@[simp] theorem State.raise_blt (e : ErrCode) : (s.raise e).blt = s.blt := rfl
@[simp] theorem State.raise_entropy (e : ErrCode) : (s.raise e).entropy = s.entropy := rfl
@[simp] theorem State.raise_inbox (e : ErrCode) : (s.raise e).inbox = s.inbox := rfl
@[simp] theorem State.raise_response (e : ErrCode) : (s.raise e).response = s.response := rfl
@[simp] theorem State.raise_free (e : ErrCode) : (s.raise e).free = s.free := rfl

/-! ## raiseAt: `raise IntegrityFailure(i)` (60 R200). -/

@[simp] theorem State.raiseAt_cfg (i : Nat) : (s.raiseAt i).cfg = s.cfg := rfl
@[simp] theorem State.raiseAt_busy (i : Nat) : (s.raiseAt i).busy = false := rfl
@[simp] theorem State.raiseAt_mvalid (i : Nat) : (s.raiseAt i).mvalid = s.mvalid := rfl
@[simp] theorem State.raiseAt_err (i : Nat) : (s.raiseAt i).err = .integrityFailure := rfl
@[simp] theorem State.raiseAt_lastCmd (i : Nat) : (s.raiseAt i).lastCmd = s.lastCmd := rfl
@[simp] theorem State.raiseAt_intStatus (i : Nat) : (s.raiseAt i).intStatus = s.intStatus ||| completionBits .integrityFailure := rfl
@[simp] theorem State.raiseAt_intEnable (i : Nat) : (s.raiseAt i).intEnable = s.intEnable := rfl
@[simp] theorem State.raiseAt_paramK (i : Nat) : (s.raiseAt i).paramK = s.paramK := rfl
@[simp] theorem State.raiseAt_paramM (i : Nat) : (s.raiseAt i).paramM = s.paramM := rfl
@[simp] theorem State.raiseAt_inLen (i : Nat) : (s.raiseAt i).inLen = s.inLen := rfl
@[simp] theorem State.raiseAt_blkN (i : Nat) : (s.raiseAt i).blkN = s.blkN := rfl
@[simp] theorem State.raiseAt_outLen (i : Nat) : (s.raiseAt i).outLen = 0 := rfl
@[simp] theorem State.raiseAt_blkOut (i : Nat) : (s.raiseAt i).blkOut = 0 := rfl
@[simp] theorem State.raiseAt_failIndex (i : Nat) : (s.raiseAt i).failIndex = BitVec.ofNat 32 i := rfl
@[simp] theorem State.raiseAt_cmdw (i : Nat) : (s.raiseAt i).cmdw = s.cmdw := rfl
@[simp] theorem State.raiseAt_mram (i : Nat) : (s.raiseAt i).mram = s.mram := rfl
@[simp] theorem State.raiseAt_wram (i : Nat) : (s.raiseAt i).wram = s.wram := rfl
@[simp] theorem State.raiseAt_ibuf (i : Nat) : (s.raiseAt i).ibuf = s.ibuf := rfl
@[simp] theorem State.raiseAt_obuf (i : Nat) : (s.raiseAt i).obuf = s.obuf := rfl
@[simp] theorem State.raiseAt_blt (i : Nat) : (s.raiseAt i).blt = s.blt := rfl
@[simp] theorem State.raiseAt_entropy (i : Nat) : (s.raiseAt i).entropy = s.entropy := rfl
@[simp] theorem State.raiseAt_inbox (i : Nat) : (s.raiseAt i).inbox = s.inbox := rfl
@[simp] theorem State.raiseAt_response (i : Nat) : (s.raiseAt i).response = s.response := rfl
@[simp] theorem State.raiseAt_free (i : Nat) : (s.raiseAt i).free = s.free := rfl

/-! ## dropWrite: A dropped host write (60 R205). -/

@[simp] theorem State.dropWrite_cfg : (s.dropWrite).cfg = s.cfg := rfl
@[simp] theorem State.dropWrite_busy : (s.dropWrite).busy = s.busy := rfl
@[simp] theorem State.dropWrite_mvalid : (s.dropWrite).mvalid = s.mvalid := rfl
@[simp] theorem State.dropWrite_err : (s.dropWrite).err = s.err := rfl
@[simp] theorem State.dropWrite_lastCmd : (s.dropWrite).lastCmd = s.lastCmd := rfl
@[simp] theorem State.dropWrite_intStatus : (s.dropWrite).intStatus = s.intStatus ||| wrDropBit := rfl
@[simp] theorem State.dropWrite_intEnable : (s.dropWrite).intEnable = s.intEnable := rfl
@[simp] theorem State.dropWrite_paramK : (s.dropWrite).paramK = s.paramK := rfl
@[simp] theorem State.dropWrite_paramM : (s.dropWrite).paramM = s.paramM := rfl
@[simp] theorem State.dropWrite_inLen : (s.dropWrite).inLen = s.inLen := rfl
@[simp] theorem State.dropWrite_blkN : (s.dropWrite).blkN = s.blkN := rfl
@[simp] theorem State.dropWrite_outLen : (s.dropWrite).outLen = s.outLen := rfl
@[simp] theorem State.dropWrite_blkOut : (s.dropWrite).blkOut = s.blkOut := rfl
@[simp] theorem State.dropWrite_failIndex : (s.dropWrite).failIndex = s.failIndex := rfl
@[simp] theorem State.dropWrite_cmdw : (s.dropWrite).cmdw = s.cmdw := rfl
@[simp] theorem State.dropWrite_mram : (s.dropWrite).mram = s.mram := rfl
@[simp] theorem State.dropWrite_wram : (s.dropWrite).wram = s.wram := rfl
@[simp] theorem State.dropWrite_ibuf : (s.dropWrite).ibuf = s.ibuf := rfl
@[simp] theorem State.dropWrite_obuf : (s.dropWrite).obuf = s.obuf := rfl
@[simp] theorem State.dropWrite_blt : (s.dropWrite).blt = s.blt := rfl
@[simp] theorem State.dropWrite_entropy : (s.dropWrite).entropy = s.entropy := rfl
@[simp] theorem State.dropWrite_inbox : (s.dropWrite).inbox = s.inbox := rfl
@[simp] theorem State.dropWrite_response : (s.dropWrite).response = s.response := rfl
@[simp] theorem State.dropWrite_free : (s.dropWrite).free = s.free := rfl

/-! ## answer: The answer to the Host. -/

@[simp] theorem State.answer_cfg (x : Bool) (d : Word) : (s.answer x d).cfg = s.cfg := rfl
@[simp] theorem State.answer_busy (x : Bool) (d : Word) : (s.answer x d).busy = s.busy := rfl
@[simp] theorem State.answer_mvalid (x : Bool) (d : Word) : (s.answer x d).mvalid = s.mvalid := rfl
@[simp] theorem State.answer_err (x : Bool) (d : Word) : (s.answer x d).err = s.err := rfl
@[simp] theorem State.answer_lastCmd (x : Bool) (d : Word) : (s.answer x d).lastCmd = s.lastCmd := rfl
@[simp] theorem State.answer_intStatus (x : Bool) (d : Word) : (s.answer x d).intStatus = s.intStatus := rfl
@[simp] theorem State.answer_intEnable (x : Bool) (d : Word) : (s.answer x d).intEnable = s.intEnable := rfl
@[simp] theorem State.answer_paramK (x : Bool) (d : Word) : (s.answer x d).paramK = s.paramK := rfl
@[simp] theorem State.answer_paramM (x : Bool) (d : Word) : (s.answer x d).paramM = s.paramM := rfl
@[simp] theorem State.answer_inLen (x : Bool) (d : Word) : (s.answer x d).inLen = s.inLen := rfl
@[simp] theorem State.answer_blkN (x : Bool) (d : Word) : (s.answer x d).blkN = s.blkN := rfl
@[simp] theorem State.answer_outLen (x : Bool) (d : Word) : (s.answer x d).outLen = s.outLen := rfl
@[simp] theorem State.answer_blkOut (x : Bool) (d : Word) : (s.answer x d).blkOut = s.blkOut := rfl
@[simp] theorem State.answer_failIndex (x : Bool) (d : Word) : (s.answer x d).failIndex = s.failIndex := rfl
@[simp] theorem State.answer_cmdw (x : Bool) (d : Word) : (s.answer x d).cmdw = s.cmdw := rfl
@[simp] theorem State.answer_mram (x : Bool) (d : Word) : (s.answer x d).mram = s.mram := rfl
@[simp] theorem State.answer_wram (x : Bool) (d : Word) : (s.answer x d).wram = s.wram := rfl
@[simp] theorem State.answer_ibuf (x : Bool) (d : Word) : (s.answer x d).ibuf = s.ibuf := rfl
@[simp] theorem State.answer_obuf (x : Bool) (d : Word) : (s.answer x d).obuf = s.obuf := rfl
@[simp] theorem State.answer_blt (x : Bool) (d : Word) : (s.answer x d).blt = s.blt := rfl
@[simp] theorem State.answer_entropy (x : Bool) (d : Word) : (s.answer x d).entropy = s.entropy := rfl
@[simp] theorem State.answer_inbox (x : Bool) (d : Word) : (s.answer x d).inbox = s.inbox := rfl
@[simp] theorem State.answer_response (x : Bool) (d : Word) : (s.answer x d).response = some { error := x, data := d } := rfl
@[simp] theorem State.answer_free (x : Bool) (d : Word) : (s.answer x d).free = s.free := rfl

/-! ## drawn: A free draw is used. -/

@[simp] theorem State.drawn_cfg : (s.drawn).cfg = s.cfg := rfl
@[simp] theorem State.drawn_busy : (s.drawn).busy = s.busy := rfl
@[simp] theorem State.drawn_mvalid : (s.drawn).mvalid = s.mvalid := rfl
@[simp] theorem State.drawn_err : (s.drawn).err = s.err := rfl
@[simp] theorem State.drawn_lastCmd : (s.drawn).lastCmd = s.lastCmd := rfl
@[simp] theorem State.drawn_intStatus : (s.drawn).intStatus = s.intStatus := rfl
@[simp] theorem State.drawn_intEnable : (s.drawn).intEnable = s.intEnable := rfl
@[simp] theorem State.drawn_paramK : (s.drawn).paramK = s.paramK := rfl
@[simp] theorem State.drawn_paramM : (s.drawn).paramM = s.paramM := rfl
@[simp] theorem State.drawn_inLen : (s.drawn).inLen = s.inLen := rfl
@[simp] theorem State.drawn_blkN : (s.drawn).blkN = s.blkN := rfl
@[simp] theorem State.drawn_outLen : (s.drawn).outLen = s.outLen := rfl
@[simp] theorem State.drawn_blkOut : (s.drawn).blkOut = s.blkOut := rfl
@[simp] theorem State.drawn_failIndex : (s.drawn).failIndex = s.failIndex := rfl
@[simp] theorem State.drawn_cmdw : (s.drawn).cmdw = s.cmdw := rfl
@[simp] theorem State.drawn_mram : (s.drawn).mram = s.mram := rfl
@[simp] theorem State.drawn_wram : (s.drawn).wram = s.wram := rfl
@[simp] theorem State.drawn_ibuf : (s.drawn).ibuf = s.ibuf := rfl
@[simp] theorem State.drawn_obuf : (s.drawn).obuf = s.obuf := rfl
@[simp] theorem State.drawn_blt : (s.drawn).blt = s.blt := rfl
@[simp] theorem State.drawn_entropy : (s.drawn).entropy = s.entropy := rfl
@[simp] theorem State.drawn_inbox : (s.drawn).inbox = s.inbox := rfl
@[simp] theorem State.drawn_response : (s.drawn).response = s.response := rfl
@[simp] theorem State.drawn_free : (s.drawn).free = s.free + 1 := rfl

/-! ## scratchWram: WRAM after DECODE (42 R171). -/

@[simp] theorem State.scratchWram_cfg : (s.scratchWram).cfg = s.cfg := rfl
@[simp] theorem State.scratchWram_busy : (s.scratchWram).busy = s.busy := rfl
@[simp] theorem State.scratchWram_mvalid : (s.scratchWram).mvalid = s.mvalid := rfl
@[simp] theorem State.scratchWram_err : (s.scratchWram).err = s.err := rfl
@[simp] theorem State.scratchWram_lastCmd : (s.scratchWram).lastCmd = s.lastCmd := rfl
@[simp] theorem State.scratchWram_intStatus : (s.scratchWram).intStatus = s.intStatus := rfl
@[simp] theorem State.scratchWram_intEnable : (s.scratchWram).intEnable = s.intEnable := rfl
@[simp] theorem State.scratchWram_paramK : (s.scratchWram).paramK = s.paramK := rfl
@[simp] theorem State.scratchWram_paramM : (s.scratchWram).paramM = s.paramM := rfl
@[simp] theorem State.scratchWram_inLen : (s.scratchWram).inLen = s.inLen := rfl
@[simp] theorem State.scratchWram_blkN : (s.scratchWram).blkN = s.blkN := rfl
@[simp] theorem State.scratchWram_outLen : (s.scratchWram).outLen = s.outLen := rfl
@[simp] theorem State.scratchWram_blkOut : (s.scratchWram).blkOut = s.blkOut := rfl
@[simp] theorem State.scratchWram_failIndex : (s.scratchWram).failIndex = s.failIndex := rfl
@[simp] theorem State.scratchWram_cmdw : (s.scratchWram).cmdw = s.cmdw := rfl
@[simp] theorem State.scratchWram_mram : (s.scratchWram).mram = s.mram := rfl
@[simp] theorem State.scratchWram_wram : (s.scratchWram).wram = Memory.unknown s.free := rfl
@[simp] theorem State.scratchWram_ibuf : (s.scratchWram).ibuf = s.ibuf := rfl
@[simp] theorem State.scratchWram_obuf : (s.scratchWram).obuf = s.obuf := rfl
@[simp] theorem State.scratchWram_blt : (s.scratchWram).blt = s.blt := rfl
@[simp] theorem State.scratchWram_entropy : (s.scratchWram).entropy = s.entropy := rfl
@[simp] theorem State.scratchWram_inbox : (s.scratchWram).inbox = s.inbox := rfl
@[simp] theorem State.scratchWram_response : (s.scratchWram).response = s.response := rfl
@[simp] theorem State.scratchWram_free : (s.scratchWram).free = s.free + 1 := rfl

/-! ## clearEvents: A write to INT_STATUS (10 R25). -/

@[simp] theorem State.clearEvents_cfg (v : Word) : (s.clearEvents v).cfg = s.cfg := rfl
@[simp] theorem State.clearEvents_busy (v : Word) : (s.clearEvents v).busy = s.busy := rfl
@[simp] theorem State.clearEvents_mvalid (v : Word) : (s.clearEvents v).mvalid = s.mvalid := rfl
@[simp] theorem State.clearEvents_err (v : Word) : (s.clearEvents v).err = s.err := rfl
@[simp] theorem State.clearEvents_lastCmd (v : Word) : (s.clearEvents v).lastCmd = s.lastCmd := rfl
@[simp] theorem State.clearEvents_intStatus (v : Word) : (s.clearEvents v).intStatus = s.intStatus &&& ~~~ eventBits v := rfl
@[simp] theorem State.clearEvents_intEnable (v : Word) : (s.clearEvents v).intEnable = s.intEnable := rfl
@[simp] theorem State.clearEvents_paramK (v : Word) : (s.clearEvents v).paramK = s.paramK := rfl
@[simp] theorem State.clearEvents_paramM (v : Word) : (s.clearEvents v).paramM = s.paramM := rfl
@[simp] theorem State.clearEvents_inLen (v : Word) : (s.clearEvents v).inLen = s.inLen := rfl
@[simp] theorem State.clearEvents_blkN (v : Word) : (s.clearEvents v).blkN = s.blkN := rfl
@[simp] theorem State.clearEvents_outLen (v : Word) : (s.clearEvents v).outLen = s.outLen := rfl
@[simp] theorem State.clearEvents_blkOut (v : Word) : (s.clearEvents v).blkOut = s.blkOut := rfl
@[simp] theorem State.clearEvents_failIndex (v : Word) : (s.clearEvents v).failIndex = s.failIndex := rfl
@[simp] theorem State.clearEvents_cmdw (v : Word) : (s.clearEvents v).cmdw = s.cmdw := rfl
@[simp] theorem State.clearEvents_mram (v : Word) : (s.clearEvents v).mram = s.mram := rfl
@[simp] theorem State.clearEvents_wram (v : Word) : (s.clearEvents v).wram = s.wram := rfl
@[simp] theorem State.clearEvents_ibuf (v : Word) : (s.clearEvents v).ibuf = s.ibuf := rfl
@[simp] theorem State.clearEvents_obuf (v : Word) : (s.clearEvents v).obuf = s.obuf := rfl
@[simp] theorem State.clearEvents_blt (v : Word) : (s.clearEvents v).blt = s.blt := rfl
@[simp] theorem State.clearEvents_entropy (v : Word) : (s.clearEvents v).entropy = s.entropy := rfl
@[simp] theorem State.clearEvents_inbox (v : Word) : (s.clearEvents v).inbox = s.inbox := rfl
@[simp] theorem State.clearEvents_response (v : Word) : (s.clearEvents v).response = s.response := rfl
@[simp] theorem State.clearEvents_free (v : Word) : (s.clearEvents v).free = s.free := rfl

/-! ## enableEvents: A write to INT_ENABLE (10 R26). -/

@[simp] theorem State.enableEvents_cfg (v : Word) : (s.enableEvents v).cfg = s.cfg := rfl
@[simp] theorem State.enableEvents_busy (v : Word) : (s.enableEvents v).busy = s.busy := rfl
@[simp] theorem State.enableEvents_mvalid (v : Word) : (s.enableEvents v).mvalid = s.mvalid := rfl
@[simp] theorem State.enableEvents_err (v : Word) : (s.enableEvents v).err = s.err := rfl
@[simp] theorem State.enableEvents_lastCmd (v : Word) : (s.enableEvents v).lastCmd = s.lastCmd := rfl
@[simp] theorem State.enableEvents_intStatus (v : Word) : (s.enableEvents v).intStatus = s.intStatus := rfl
@[simp] theorem State.enableEvents_intEnable (v : Word) : (s.enableEvents v).intEnable = eventBits v := rfl
@[simp] theorem State.enableEvents_paramK (v : Word) : (s.enableEvents v).paramK = s.paramK := rfl
@[simp] theorem State.enableEvents_paramM (v : Word) : (s.enableEvents v).paramM = s.paramM := rfl
@[simp] theorem State.enableEvents_inLen (v : Word) : (s.enableEvents v).inLen = s.inLen := rfl
@[simp] theorem State.enableEvents_blkN (v : Word) : (s.enableEvents v).blkN = s.blkN := rfl
@[simp] theorem State.enableEvents_outLen (v : Word) : (s.enableEvents v).outLen = s.outLen := rfl
@[simp] theorem State.enableEvents_blkOut (v : Word) : (s.enableEvents v).blkOut = s.blkOut := rfl
@[simp] theorem State.enableEvents_failIndex (v : Word) : (s.enableEvents v).failIndex = s.failIndex := rfl
@[simp] theorem State.enableEvents_cmdw (v : Word) : (s.enableEvents v).cmdw = s.cmdw := rfl
@[simp] theorem State.enableEvents_mram (v : Word) : (s.enableEvents v).mram = s.mram := rfl
@[simp] theorem State.enableEvents_wram (v : Word) : (s.enableEvents v).wram = s.wram := rfl
@[simp] theorem State.enableEvents_ibuf (v : Word) : (s.enableEvents v).ibuf = s.ibuf := rfl
@[simp] theorem State.enableEvents_obuf (v : Word) : (s.enableEvents v).obuf = s.obuf := rfl
@[simp] theorem State.enableEvents_blt (v : Word) : (s.enableEvents v).blt = s.blt := rfl
@[simp] theorem State.enableEvents_entropy (v : Word) : (s.enableEvents v).entropy = s.entropy := rfl
@[simp] theorem State.enableEvents_inbox (v : Word) : (s.enableEvents v).inbox = s.inbox := rfl
@[simp] theorem State.enableEvents_response (v : Word) : (s.enableEvents v).response = s.response := rfl
@[simp] theorem State.enableEvents_free (v : Word) : (s.enableEvents v).free = s.free := rfl

/-! ## installMatrix: An installed matrix (40 R111, R112). -/

@[simp] theorem State.installMatrix_cfg (x : List Byte) : (s.installMatrix x).cfg = s.cfg := rfl
@[simp] theorem State.installMatrix_busy (x : List Byte) : (s.installMatrix x).busy = s.busy := rfl
@[simp] theorem State.installMatrix_mvalid (x : List Byte) : (s.installMatrix x).mvalid = true := rfl
@[simp] theorem State.installMatrix_err (x : List Byte) : (s.installMatrix x).err = s.err := rfl
@[simp] theorem State.installMatrix_lastCmd (x : List Byte) : (s.installMatrix x).lastCmd = s.lastCmd := rfl
@[simp] theorem State.installMatrix_intStatus (x : List Byte) : (s.installMatrix x).intStatus = s.intStatus := rfl
@[simp] theorem State.installMatrix_intEnable (x : List Byte) : (s.installMatrix x).intEnable = s.intEnable := rfl
@[simp] theorem State.installMatrix_paramK (x : List Byte) : (s.installMatrix x).paramK = s.paramK := rfl
@[simp] theorem State.installMatrix_paramM (x : List Byte) : (s.installMatrix x).paramM = s.paramM := rfl
@[simp] theorem State.installMatrix_inLen (x : List Byte) : (s.installMatrix x).inLen = s.inLen := rfl
@[simp] theorem State.installMatrix_blkN (x : List Byte) : (s.installMatrix x).blkN = s.blkN := rfl
@[simp] theorem State.installMatrix_outLen (x : List Byte) : (s.installMatrix x).outLen = s.outLen := rfl
@[simp] theorem State.installMatrix_blkOut (x : List Byte) : (s.installMatrix x).blkOut = s.blkOut := rfl
@[simp] theorem State.installMatrix_failIndex (x : List Byte) : (s.installMatrix x).failIndex = s.failIndex := rfl
@[simp] theorem State.installMatrix_cmdw (x : List Byte) : (s.installMatrix x).cmdw = s.cmdw := rfl
@[simp] theorem State.installMatrix_mram (x : List Byte) : (s.installMatrix x).mram = s.mram.writeBytes 0 x := rfl
@[simp] theorem State.installMatrix_wram (x : List Byte) : (s.installMatrix x).wram = s.wram := rfl
@[simp] theorem State.installMatrix_ibuf (x : List Byte) : (s.installMatrix x).ibuf = s.ibuf := rfl
@[simp] theorem State.installMatrix_obuf (x : List Byte) : (s.installMatrix x).obuf = s.obuf := rfl
@[simp] theorem State.installMatrix_blt (x : List Byte) : (s.installMatrix x).blt = s.blt := rfl
@[simp] theorem State.installMatrix_entropy (x : List Byte) : (s.installMatrix x).entropy = s.entropy := rfl
@[simp] theorem State.installMatrix_inbox (x : List Byte) : (s.installMatrix x).inbox = s.inbox := rfl
@[simp] theorem State.installMatrix_response (x : List Byte) : (s.installMatrix x).response = s.response := rfl
@[simp] theorem State.installMatrix_free (x : List Byte) : (s.installMatrix x).free = s.free := rfl

/-! ## takeEntropy: Entropy bytes taken (60 R211). -/

@[simp] theorem State.takeEntropy_cfg (c : Nat) : (s.takeEntropy c).cfg = s.cfg := rfl
@[simp] theorem State.takeEntropy_busy (c : Nat) : (s.takeEntropy c).busy = s.busy := rfl
@[simp] theorem State.takeEntropy_mvalid (c : Nat) : (s.takeEntropy c).mvalid = s.mvalid := rfl
@[simp] theorem State.takeEntropy_err (c : Nat) : (s.takeEntropy c).err = s.err := rfl
@[simp] theorem State.takeEntropy_lastCmd (c : Nat) : (s.takeEntropy c).lastCmd = s.lastCmd := rfl
@[simp] theorem State.takeEntropy_intStatus (c : Nat) : (s.takeEntropy c).intStatus = s.intStatus := rfl
@[simp] theorem State.takeEntropy_intEnable (c : Nat) : (s.takeEntropy c).intEnable = s.intEnable := rfl
@[simp] theorem State.takeEntropy_paramK (c : Nat) : (s.takeEntropy c).paramK = s.paramK := rfl
@[simp] theorem State.takeEntropy_paramM (c : Nat) : (s.takeEntropy c).paramM = s.paramM := rfl
@[simp] theorem State.takeEntropy_inLen (c : Nat) : (s.takeEntropy c).inLen = s.inLen := rfl
@[simp] theorem State.takeEntropy_blkN (c : Nat) : (s.takeEntropy c).blkN = s.blkN := rfl
@[simp] theorem State.takeEntropy_outLen (c : Nat) : (s.takeEntropy c).outLen = s.outLen := rfl
@[simp] theorem State.takeEntropy_blkOut (c : Nat) : (s.takeEntropy c).blkOut = s.blkOut := rfl
@[simp] theorem State.takeEntropy_failIndex (c : Nat) : (s.takeEntropy c).failIndex = s.failIndex := rfl
@[simp] theorem State.takeEntropy_cmdw (c : Nat) : (s.takeEntropy c).cmdw = s.cmdw := rfl
@[simp] theorem State.takeEntropy_mram (c : Nat) : (s.takeEntropy c).mram = s.mram := rfl
@[simp] theorem State.takeEntropy_wram (c : Nat) : (s.takeEntropy c).wram = s.wram := rfl
@[simp] theorem State.takeEntropy_ibuf (c : Nat) : (s.takeEntropy c).ibuf = s.ibuf := rfl
@[simp] theorem State.takeEntropy_obuf (c : Nat) : (s.takeEntropy c).obuf = s.obuf := rfl
@[simp] theorem State.takeEntropy_blt (c : Nat) : (s.takeEntropy c).blt = s.blt := rfl
@[simp] theorem State.takeEntropy_entropy (c : Nat) : (s.takeEntropy c).entropy = s.entropy.drop c := rfl
@[simp] theorem State.takeEntropy_inbox (c : Nat) : (s.takeEntropy c).inbox = s.inbox := rfl
@[simp] theorem State.takeEntropy_response (c : Nat) : (s.takeEntropy c).response = s.response := rfl
@[simp] theorem State.takeEntropy_free (c : Nat) : (s.takeEntropy c).free = s.free := rfl

/-! ## supply: An entropy byte supplied (60 R211). -/

@[simp] theorem State.supply_cfg (x : Byte) : (s.supply x).cfg = s.cfg := rfl
@[simp] theorem State.supply_busy (x : Byte) : (s.supply x).busy = s.busy := rfl
@[simp] theorem State.supply_mvalid (x : Byte) : (s.supply x).mvalid = s.mvalid := rfl
@[simp] theorem State.supply_err (x : Byte) : (s.supply x).err = s.err := rfl
@[simp] theorem State.supply_lastCmd (x : Byte) : (s.supply x).lastCmd = s.lastCmd := rfl
@[simp] theorem State.supply_intStatus (x : Byte) : (s.supply x).intStatus = s.intStatus := rfl
@[simp] theorem State.supply_intEnable (x : Byte) : (s.supply x).intEnable = s.intEnable := rfl
@[simp] theorem State.supply_paramK (x : Byte) : (s.supply x).paramK = s.paramK := rfl
@[simp] theorem State.supply_paramM (x : Byte) : (s.supply x).paramM = s.paramM := rfl
@[simp] theorem State.supply_inLen (x : Byte) : (s.supply x).inLen = s.inLen := rfl
@[simp] theorem State.supply_blkN (x : Byte) : (s.supply x).blkN = s.blkN := rfl
@[simp] theorem State.supply_outLen (x : Byte) : (s.supply x).outLen = s.outLen := rfl
@[simp] theorem State.supply_blkOut (x : Byte) : (s.supply x).blkOut = s.blkOut := rfl
@[simp] theorem State.supply_failIndex (x : Byte) : (s.supply x).failIndex = s.failIndex := rfl
@[simp] theorem State.supply_cmdw (x : Byte) : (s.supply x).cmdw = s.cmdw := rfl
@[simp] theorem State.supply_mram (x : Byte) : (s.supply x).mram = s.mram := rfl
@[simp] theorem State.supply_wram (x : Byte) : (s.supply x).wram = s.wram := rfl
@[simp] theorem State.supply_ibuf (x : Byte) : (s.supply x).ibuf = s.ibuf := rfl
@[simp] theorem State.supply_obuf (x : Byte) : (s.supply x).obuf = s.obuf := rfl
@[simp] theorem State.supply_blt (x : Byte) : (s.supply x).blt = s.blt := rfl
@[simp] theorem State.supply_entropy (x : Byte) : (s.supply x).entropy = s.entropy ++ [x] := rfl
@[simp] theorem State.supply_inbox (x : Byte) : (s.supply x).inbox = s.inbox := rfl
@[simp] theorem State.supply_response (x : Byte) : (s.supply x).response = s.response := rfl
@[simp] theorem State.supply_free (x : Byte) : (s.supply x).free = s.free := rfl

/-! ## restart: The `rst` input (70 R230). -/

@[simp] theorem State.restart_cfg : (s.restart).cfg = s.cfg := rfl
@[simp] theorem State.restart_busy : (s.restart).busy = State.reset.busy := rfl
@[simp] theorem State.restart_mvalid : (s.restart).mvalid = State.reset.mvalid := rfl
@[simp] theorem State.restart_err : (s.restart).err = State.reset.err := rfl
@[simp] theorem State.restart_lastCmd : (s.restart).lastCmd = State.reset.lastCmd := rfl
@[simp] theorem State.restart_intStatus : (s.restart).intStatus = State.reset.intStatus := rfl
@[simp] theorem State.restart_intEnable : (s.restart).intEnable = State.reset.intEnable := rfl
@[simp] theorem State.restart_paramK : (s.restart).paramK = State.reset.paramK := rfl
@[simp] theorem State.restart_paramM : (s.restart).paramM = State.reset.paramM := rfl
@[simp] theorem State.restart_inLen : (s.restart).inLen = State.reset.inLen := rfl
@[simp] theorem State.restart_blkN : (s.restart).blkN = State.reset.blkN := rfl
@[simp] theorem State.restart_outLen : (s.restart).outLen = State.reset.outLen := rfl
@[simp] theorem State.restart_blkOut : (s.restart).blkOut = State.reset.blkOut := rfl
@[simp] theorem State.restart_failIndex : (s.restart).failIndex = State.reset.failIndex := rfl
@[simp] theorem State.restart_cmdw : (s.restart).cmdw = State.reset.cmdw := rfl
@[simp] theorem State.restart_mram : (s.restart).mram = Memory.unknown s.free := rfl
@[simp] theorem State.restart_wram : (s.restart).wram = Memory.unknown (s.free + 1) := rfl
@[simp] theorem State.restart_ibuf : (s.restart).ibuf = Memory.unknown (s.free + 2) := rfl
@[simp] theorem State.restart_obuf : (s.restart).obuf = Memory.unknown (s.free + 3) := rfl
@[simp] theorem State.restart_blt : (s.restart).blt = Memory.unknown (s.free + 4) := rfl
@[simp] theorem State.restart_entropy : (s.restart).entropy = s.entropy := rfl
@[simp] theorem State.restart_inbox : (s.restart).inbox = s.inbox := rfl
@[simp] theorem State.restart_response : (s.restart).response = State.reset.response := rfl
@[simp] theorem State.restart_free : (s.restart).free = s.free + 5 := rfl

end Sys2Proof.Machine
end

