-- ==== Sys2Proof/Laws/Bus.lean ====
section
/-! SUPPORT. What an access selects, as arithmetic on its offset, the byte order of values, and what one host access
may change. -/

namespace Sys2Proof.Machine

theorem apertureOf_eq (off : Word) : apertureOf off = apertureNo off := by
  have := off.isLt
  simp only [apertureOf, apertureNo, BitVec.extractLsb'_toNat, Nat.shiftRight_eq_div_pow]
  omega

theorem localOf_eq (off : Word) : localOf off = localOffset off := by
  simp [localOf, localOffset, BitVec.extractLsb'_toNat]

theorem wordAccessOk_iff (size a width : Nat) : wordAccessOk size a width = true ↔ WordAccess size a width := by
  simp [wordAccessOk, WordAccess, and_assoc]

theorem byteAccessOk_iff (size a width : Nat) : byteAccessOk size a width = true ↔ ByteAccess size a width := by
  simp [byteAccessOk, ByteAccess, and_assoc, or_assoc]

/-- What `targetOf` answers, for each aperture (20 R61, R62). -/
theorem targetOf_eq_some {c : Config} {off : Word} {width : Nat} {x : Target} :
    targetOf c off width = some x ↔
      (apertureNo off = 0 ∧ WordAccess 0x1000 (localOffset off) width ∧ x = .reg (localOffset off)) ∨
      (apertureNo off = 1 ∧ WordAccess (4 * c.nMax) (localOffset off) width ∧ x = .blt (localOffset off)) ∨
      (apertureNo off = 2 ∧ ByteAccess c.ibufBytes (localOffset off) width ∧ x = .ibuf (localOffset off)) ∨
      (apertureNo off = 3 ∧ ByteAccess c.obufBytes (localOffset off) width ∧ x = .obuf (localOffset off)) := by
  unfold targetOf
  rw [apertureOf_eq, localOf_eq]
  split
  · next h => simp [h, wordAccessOk_iff, @eq_comm _ x]
  · next h => simp [h, wordAccessOk_iff, @eq_comm _ x]
  · next h => simp [h, byteAccessOk_iff, @eq_comm _ x]
  · next h => simp [h, byteAccessOk_iff, @eq_comm _ x]
  · next h0 h1 h2 h3 =>
    constructor
    · intro h; cases h
    · rintro (⟨h, -⟩ | ⟨h, -⟩ | ⟨h, -⟩ | ⟨h, -⟩)
      exacts [(h0 h).elim, (h1 h).elim, (h2 h).elim, (h3 h).elim]

/-- A bus error is the answer to exactly the accesses that are not permitted (20 R63). -/
theorem targetOf_eq_none {c : Config} {off : Word} {width : Nat} :
    targetOf c off width = none ↔ ¬ Permitted c off width := by
  rw [Option.eq_none_iff_forall_ne_some]
  simp only [ne_eq, targetOf_eq_some, Permitted]
  constructor
  · rintro h (⟨ha, hb⟩ | ⟨ha, hb⟩ | ⟨ha, hb⟩ | ⟨ha, hb⟩)
    · exact h _ (.inl ⟨ha, hb, rfl⟩)
    · exact h _ (.inr (.inl ⟨ha, hb, rfl⟩))
    · exact h _ (.inr (.inr (.inl ⟨ha, hb, rfl⟩)))
    · exact h _ (.inr (.inr (.inr ⟨ha, hb, rfl⟩)))
  · rintro h x (⟨ha, hb, -⟩ | ⟨ha, hb, -⟩ | ⟨ha, hb, -⟩ | ⟨ha, hb, -⟩)
    · exact h (.inl ⟨ha, hb⟩)
    · exact h (.inr (.inl ⟨ha, hb⟩))
    · exact h (.inr (.inr (.inl ⟨ha, hb⟩)))
    · exact h (.inr (.inr (.inr ⟨ha, hb⟩)))

/-- An aligned 4-byte access to aperture 0 selects the register at its local offset. -/
theorem targetOf_reg {c : Config} {off : Word} (h : off.toNat ≤ 0xFFC) (ha : off.toNat % 4 = 0) :
    targetOf c off 4 = some (.reg off.toNat) := by
  have h0 : apertureNo off = 0 := by simp only [apertureNo]; omega
  have h1 : localOffset off = off.toNat := by simp only [localOffset]; omega
  rw [targetOf_eq_some, h0, h1]
  exact .inl ⟨rfl, ⟨rfl, ha, by omega⟩, rfl⟩

/-- The register map read by name and by offset is one table (10 R22). -/
theorem regAt_offset (r : Reg) : regAt r.offset.toNat = some r := by
  cases r <;> rfl

theorem regAt_eq_some {a : Nat} {r : Reg} (h : regAt a = some r) : a = r.offset.toNat := by
  unfold regAt at h
  split at h <;> first | (cases h; rfl) | cases h

/-- The offset of an access that selects a register is that register's. -/
theorem offset_of_targetOf {c : Config} {off : Word} {r : Reg}
    (ht : targetOf c off 4 = some (.reg (localOffset off))) (hr : regAt (localOffset off) = some r) :
    off = r.offset := by
  have h := targetOf_eq_some.1 ht
  simp only [reduceCtorEq, and_false, or_false] at h
  have hl := regAt_eq_some hr
  apply BitVec.eq_of_toNat_eq
  rw [← hl]
  have h0 := h.1
  simp only [apertureNo] at h0
  simp only [localOffset]
  omega

@[simp] theorem bytesOfValue_length (v : Word) (width : Nat) : (bytesOfValue v width).length = width := by
  simp [bytesOfValue]

@[simp] theorem bytesOfValue_getElem (v : Word) (width t : Nat) (h : t < (bytesOfValue v width).length) :
    (bytesOfValue v width)[t] = v.extractLsb' (8 * t) 8 := by
  simp [bytesOfValue, wordByte]

/-- Byte `t` of an assembled value is the `t`-th byte (20 R64). -/
theorem valueOfBytes_byte (bs : List Byte) (t : Nat) (ht : t < bs.length) (h4 : t < 4) :
    (valueOfBytes bs).extractLsb' (8 * t) 8 = bs[t] := by
  induction bs generalizing t with
  | nil => simp at ht
  | cons b bs ih =>
    apply BitVec.eq_of_getLsbD_eq
    intro i hi
    rw [BitVec.getLsbD_extractLsb']
    simp only [valueOfBytes, BitVec.getLsbD_or, BitVec.getLsbD_setWidth, BitVec.getLsbD_shiftLeft, hi,
      decide_true, Bool.true_and]
    cases t with
    | zero => simp [hi, show i < 32 by omega]
    | succ t =>
      have hb := congrArg (fun x : Byte => x.getLsbD i) (ih t (by simpa using ht) (by omega))
      simp only [BitVec.getLsbD_extractLsb', hi, decide_true, Bool.true_and] at hb
      have h1 : (8 * (t + 1) + i) < 32 := by omega
      have h2 : ¬ (8 * (t + 1) + i) < 8 := by omega
      have h3 : 8 * (t + 1) + i - 8 = 8 * t + i := by omega
      have h5 : b.getLsbD (8 * (t + 1) + i) = false := BitVec.getLsbD_of_ge _ _ (by omega)
      simp [h1, h2, h3, h5, hb]

/-- An assembled value has no bit above its bytes. -/
theorem valueOfBytes_lt (bs : List Byte) : (valueOfBytes bs).toNat < 2 ^ (8 * bs.length) := by
  induction bs with
  | nil => simp [valueOfBytes]
  | cons b bs ih =>
    have hb := b.isLt
    simp only [valueOfBytes, BitVec.toNat_or, BitVec.toNat_setWidth, BitVec.toNat_shiftLeft, List.length_cons]
    apply Nat.or_lt_two_pow
    · refine lt_of_le_of_lt (Nat.mod_le _ _) (lt_of_lt_of_le hb ?_)
      exact Nat.pow_le_pow_right (by omega) (by omega)
    · refine lt_of_le_of_lt (Nat.mod_le _ _) ?_
      rw [Nat.shiftLeft_eq, show 8 * (bs.length + 1) = 8 * bs.length + 8 by ring, Nat.pow_add]
      exact Nat.mul_lt_mul_of_pos_right ih (by norm_num)

/-- The value of the four bytes of a word is the word. -/
theorem valueOfBytes_bytesOfValue (v : Word) : valueOfBytes (bytesOfValue v 4) = v := by
  apply BitVec.eq_of_getLsbD_eq
  intro i hi
  have h := valueOfBytes_byte (bytesOfValue v 4) (i / 8) (by simp; omega) (by omega)
  rw [bytesOfValue_getElem] at h
  have hb := congrArg (fun x : Byte => x.getLsbD (i % 8)) h
  have h1 : i % 8 < 8 := Nat.mod_lt _ (by omega)
  simp only [BitVec.getLsbD_extractLsb', h1, decide_true, Bool.true_and] at hb
  rwa [show 8 * (i / 8) + i % 8 = i by omega] at hb

end Sys2Proof.Machine
end

