-- ==== Sys2Proof/Laws/Codec.lean ====
section
/-! SUPPORT. The laws of the codec's functions on byte strings: lengths, single bytes, and what the digest comparison
and the odd inverse are. -/

namespace Sys2Proof.Machine

@[simp] theorem parity_length (m : Nat) (data : List Byte) (rows : List (List Byte)) :
    (parity m data rows).length = m := by
  simp [parity]

@[simp] theorem parity_getElem (m : Nat) (data : List Byte) (rows : List (List Byte)) (j : Nat)
    (h : j < (parity m data rows).length) :
    (parity m data rows)[j] = BitVec.ofNat 8 (laneSum data rows j % 256) := by
  simp [parity]

@[simp] theorem frame_length (m : Nat) (data : List Byte) (rows : List (List Byte)) :
    (frame m data rows).length = data.length + m := by
  simp [frame]

@[simp] theorem xorBytes_length (x y : List Byte) : (xorBytes x y).length = min x.length y.length := by
  simp [xorBytes]

@[simp] theorem xorBytes_getElem (x y : List Byte) (t : Nat) (h : t < (xorBytes x y).length) :
    (xorBytes x y)[t] = x[t]'(by simp at h; omega) ^^^ y[t]'(by simp at h; omega) := by
  simp [xorBytes]

/-- The exact sum of a lane, index by index. -/
theorem laneSum_eq_sum (data : List Byte) (rows : List (List Byte)) (j : Nat) (h : data.length = rows.length) :
    laneSum data rows j =
      ∑ i ∈ Finset.range data.length, (data.getD i 0).toNat * ((rows.getD i []).getD j 0).toNat := by
  induction data generalizing rows with
  | nil => simp [laneSum]
  | cons d data ih =>
    cases rows with
    | nil => simp at h
    | cons row rows =>
      have := ih rows (by simpa using h)
      simp only [laneSum] at this
      simp only [laneSum, List.zipWith_cons_cons, List.sum_cons, List.length_cons, Finset.sum_range_succ', this]
      simp [List.getD]
      omega

/-- The verifier's result is the equality of the digests, and nothing else (42 R166). -/
theorem digestsMatch_iff (id : Byte) (x y : List Byte) :
    digestsMatch id x y = true ↔ Config.digest id x = Config.digest id y :=
  @decide_eq_true_iff _ (digestEqDecidable id x y)

/-- Equal strings match, whatever the digest function is. -/
@[simp] theorem digestsMatch_self (id : Byte) (x : List Byte) : digestsMatch id x x = true :=
  (digestsMatch_iff id x x).2 rfl

/-- `oddInverse` is the inverse modulo 256 of an odd byte. -/
theorem oddInverse_mul {p : Byte} (h : p.getLsbD 0 = true) : p * oddInverse p = 1 := by
  revert p
  decide

/-- The pivot split rearranges the rows, and the pivot's leading entry is odd. -/
theorem splitPivot_some {rows : List (List Byte)} {pivot : List Byte} {rest : List (List Byte)}
    (h : splitPivot rows = some (pivot, rest)) :
    rows.Perm (pivot :: rest) ∧ (pivot.headD 0).getLsbD 0 = true := by
  induction rows generalizing pivot rest with
  | nil => simp [splitPivot] at h
  | cons row rows ih =>
    simp only [splitPivot] at h
    split at h
    · next hodd =>
      obtain ⟨rfl, rfl⟩ := by simpa using h
      exact ⟨.refl _, hodd⟩
    · split at h
      · next p r hs =>
        obtain ⟨rfl, rfl⟩ := by simpa using h
        exact ⟨((ih hs).1.cons row).trans (.swap _ _ _), (ih hs).2⟩
      · simp at h

/-- No pivot: every leading entry is even. -/
theorem splitPivot_none {rows : List (List Byte)} (h : splitPivot rows = none) :
    ∀ r ∈ rows, (r.headD 0).getLsbD 0 = false := by
  induction rows with
  | nil => simp
  | cons row rows ih =>
    simp only [splitPivot] at h
    split at h
    · simp at h
    · next hev =>
      split at h
      · simp at h
      · next hs =>
        intro r hr
        rcases List.mem_cons.1 hr with rfl | hr
        · simpa using hev
        · exact ih hs r hr

/-- The pivot split takes one row out of its place. -/
theorem splitPivot_eraseIdx {rows : List (List Byte)} {pivot : List Byte} {rest : List (List Byte)}
    (h : splitPivot rows = some (pivot, rest)) : ∃ r, rows[r]? = some pivot ∧ rest = rows.eraseIdx r := by
  induction rows generalizing pivot rest with
  | nil => simp [splitPivot] at h
  | cons row rows ih =>
    simp only [splitPivot] at h
    split at h
    · obtain ⟨rfl, rfl⟩ := by simpa using h
      exact ⟨0, rfl, rfl⟩
    · split at h
      · next p rest' hs =>
        obtain ⟨rfl, rfl⟩ := by simpa using h
        obtain ⟨r, hr, rfl⟩ := ih hs
        exact ⟨r + 1, by simpa using hr, by simp⟩
      · simp at h

/-- The entries of a cleared row. -/
theorem clearColumn_getElem (pivot row : List Byte) (j : Nat) (hr : j + 1 < row.length) (hp : j + 1 < pivot.length)
    (h : j < (clearColumn pivot row).length) :
    (clearColumn pivot row)[j] = row[j + 1] - row[0] * oddInverse pivot[0] * pivot[j + 1] := by
  cases row with
  | nil => simp at hr
  | cons a row =>
    cases pivot with
    | nil => simp at hp
    | cons b pivot => simp [clearColumn]

theorem clearColumn_length (pivot row : List Byte) :
    (clearColumn pivot row).length = min (row.length - 1) (pivot.length - 1) := by
  simp [clearColumn]

end Sys2Proof.Machine
end

