-- ==== Sys2Proof/Laws/Operands.lean ====
section
/-! SUPPORT. The laws of the operands: the shape and the entries of the matrix and of the blocks, and the bytes of
the outputs, index by index. -/

namespace Sys2Proof.Machine

/-! ## Strings of equal blocks -/

theorem flatMap_range_length (f : Nat → List Byte) (w n : Nat) (h : ∀ i < n, (f i).length = w) :
    ((List.range n).flatMap f).length = n * w := by
  induction n with
  | zero => simp
  | succ n ih =>
    rw [List.range_succ, List.flatMap_append, List.length_append, ih fun i hi => h i (by omega)]
    simp [h n (by omega), Nat.succ_mul]

/-- Byte `x` of block `i` in a string of blocks of one length. -/
theorem flatMap_range_getElem (f : Nat → List Byte) (w n : Nat) (h : ∀ i < n, (f i).length = w) {i x : Nat}
    (hi : i < n) (hx : x < w) :
    ((List.range n).flatMap f)[i * w + x]? = (f i)[x]? := by
  induction n with
  | zero => omega
  | succ n ih =>
    have hlen := flatMap_range_length f w n fun i hi => h i (by omega)
    rw [List.range_succ, List.flatMap_append]
    by_cases hin : i < n
    · rw [List.getElem?_append_left, ih (fun i hi => h i (by omega)) hin]
      rw [hlen]
      calc i * w + x < i * w + w := by omega
        _ = (i + 1) * w := by ring
        _ ≤ n * w := Nat.mul_le_mul_right w hin
    · obtain rfl : i = n := by omega
      rw [List.getElem?_append_right (by rw [hlen]; omega), hlen]
      simp

theorem flatMap_range_congr {f g : Nat → List Byte} {n : Nat} (h : ∀ i < n, f i = g i) :
    (List.range n).flatMap f = (List.range n).flatMap g := by
  induction n with
  | zero => rfl
  | succ n ih =>
    rw [List.range_succ, List.flatMap_append, List.flatMap_append, ih fun i hi => h i (by omega)]
    simp [h n (by omega)]

/-! ## The matrix -/

@[simp] theorem State.matrix_length (s : State) : s.matrix.length = s.k := by simp [State.matrix]

theorem State.matrix_row_length (s : State) : ∀ r ∈ s.matrix, r.length = s.m := by
  intro r hr
  obtain ⟨i, -, rfl⟩ := by simpa [State.matrix] using hr
  simp

/-- The entries of the matrix are the bytes of MRAM, row-major (10 R36). -/
theorem State.matrix_entry (s : State) {i j : Nat} (hi : i < s.k) (hj : j < s.m) :
    (s.matrix.getD i []).getD j 0 = s.mram.read (i * s.m + j) := by
  simp [State.matrix, List.getD, hi, hj, Memory.readBytes]

/-- The matrix depends on the bytes `[0, k*m)` of MRAM alone. -/
theorem State.matrix_congr {s u : State} (hk : u.paramK = s.paramK) (hm : u.paramM = s.paramM)
    (h : ∀ a < s.k * s.m, u.mram.read a = s.mram.read a) : u.matrix = s.matrix := by
  have hk' : u.k = s.k := by simp [State.k, hk]
  have hm' : u.m = s.m := by simp [State.m, hm]
  simp only [State.matrix, hk', hm']
  refine List.map_congr_left fun i hi => Memory.readBytes_congr fun t ht => h _ ?_
  have hi := List.mem_range.1 hi
  calc i * s.m + t < i * s.m + s.m := by omega
    _ = (i + 1) * s.m := by ring
    _ ≤ s.k * s.m := Nat.mul_le_mul_right _ hi

@[simp] theorem State.matrixBytes_length (s : State) : s.matrixBytes.length = s.k * s.m := by
  simp [State.matrixBytes]

/-! ## ENCODE's input and output -/

@[simp] theorem State.segment_length (s : State) (i : Nat) : (s.segment i).length = s.k := by simp [State.segment]

theorem State.frame_segment_length (s : State) (i : Nat) :
    (frame s.m (s.segment i) s.matrix).length = s.k + s.m := by simp

@[simp] theorem State.encodedBlocks_length (s : State) (n : Nat) :
    (s.encodedBlocks n).length = n * (s.k + s.m) :=
  flatMap_range_length _ _ _ fun i _ => s.frame_segment_length i

/-- The data bytes of Framed Block `i` (20 R71). -/
theorem State.encodedBlocks_data (s : State) {n i x : Nat} (hi : i < n) (hx : x < s.k) :
    (s.encodedBlocks n)[i * (s.k + s.m) + x]? = some (s.ibuf.read (i * s.k + x)) := by
  rw [State.encodedBlocks, flatMap_range_getElem _ _ _ (fun i _ => s.frame_segment_length i) hi (by omega)]
  rw [frame, List.getElem?_append_left (by simpa using hx)]
  simp [State.segment, Memory.readBytes, hx]

/-- The parity bytes of Framed Block `i` (20 R71). -/
theorem State.encodedBlocks_parity (s : State) {n i j : Nat} (hi : i < n) (hj : j < s.m) :
    (s.encodedBlocks n)[i * (s.k + s.m) + s.k + j]? =
      some (BitVec.ofNat 8 (laneSum (s.segment i) s.matrix j % 256)) := by
  rw [State.encodedBlocks, Nat.add_assoc,
    flatMap_range_getElem _ _ _ (fun i _ => s.frame_segment_length i) hi (by omega)]
  rw [frame, List.getElem?_append_right (by simp)]
  simp [parity, hj]

/-! ## DECODE's input and output -/

@[simp] theorem State.blockData_length (s : State) (i : Nat) : (s.blockData i).length = s.k := by
  simp [State.blockData]

@[simp] theorem State.blockParity_length (s : State) (i : Nat) : (s.blockParity i).length = s.m := by
  simp [State.blockParity]

@[simp] theorem State.decodedData_length (s : State) : s.decodedData.length = s.n * s.k :=
  flatMap_range_length _ _ _ fun i _ => s.blockData_length i

/-- The bytes of DECODE's output (20 R73). -/
theorem State.decodedData_byte (s : State) {i x : Nat} (hi : i < s.n) (hx : x < s.k) :
    s.decodedData[i * s.k + x]? = some (s.ibuf.read (i * (s.k + s.m) + x)) := by
  rw [State.decodedData, flatMap_range_getElem _ _ _ (fun i _ => s.blockData_length i) hi hx]
  simp [State.blockData, Memory.readBytes, hx]

theorem State.lengthsOk_iff (s : State) :
    s.lengthsOk = true ↔ ∀ i < s.n, (s.bltEntry i).toNat = s.k + s.m := by
  simp [State.lengthsOk]

/-- The first mismatch is a block on which the verifier disagrees, and it agrees on all before it. -/
theorem State.firstMismatch_some {s : State} {i : Nat} (h : s.firstMismatch = some i) :
    i < s.n ∧ s.blockMatches i = false ∧ ∀ j < i, s.blockMatches j = true := by
  rw [State.firstMismatch, List.find?_range_eq_some] at h
  simpa [and_left_comm] using h

theorem State.firstMismatch_none {s : State} (h : s.firstMismatch = none) : ∀ i < s.n, s.blockMatches i = true := by
  simpa [State.firstMismatch] using h

theorem State.blockMatches_iff (s : State) (i : Nat) :
    s.blockMatches i = true ↔ Config.digest s.cfg.digestId (s.blockData i) =
      Config.digest s.cfg.digestId (s.blockCandidate i) :=
  digestsMatch_iff _ _ _

end Sys2Proof.Machine
end

