-- ==== Sys2Proof/Laws/Commands.lean ====
section
/-! SUPPORT. Everything a command, a host access and a step can do: one inversion lemma for each, to be cited in
place of unfolding. -/

namespace Sys2Proof.Machine

/-! ## The commands -/

/-- Everything GEN_MATRIX can do. -/
theorem execGenMatrix_cases {s t : State} (h : exec .genMatrix s = .next t) :
    (s.mvalid = true ∧ t = s.raise .matrixLocked) ∨
    (s.mvalid = false ∧ ¬ ValidKM s.cfg s.k s.m ∧ t = s.raise .invalidParameters) ∨
    (s.mvalid = false ∧ ValidKM s.cfg s.k s.m ∧ s.entropy.length < s.k * s.m ∧ t = s) ∨
    (s.mvalid = false ∧ ValidKM s.cfg s.k s.m ∧ s.k * s.m ≤ s.entropy.length ∧
      t = ((s.installMatrix (s.entropy.take (s.k * s.m))).takeEntropy (s.k * s.m)).complete 0 0) := by
  simp only [exec, execGenMatrix] at h
  split at h
  · next h1 => exact .inl ⟨h1, by cases h; rfl⟩
  · next h1 =>
    rw [Bool.not_eq_true] at h1
    split at h
    · next h2 => exact .inr (.inl ⟨h1, h2, by cases h; rfl⟩)
    · next h2 =>
      rw [not_not] at h2
      split at h
      · next h3 => exact .inr (.inr (.inl ⟨h1, h2, h3, by cases h; rfl⟩))
      · next h3 => exact .inr (.inr (.inr ⟨h1, h2, by omega, by cases h; rfl⟩))

/-- Everything LOAD_MATRIX can do. -/
theorem execLoadMatrix_cases {s t : State} (h : exec .loadMatrix s = .next t) :
    (s.mvalid = true ∧ t = s.raise .matrixLocked) ∨
    (s.mvalid = false ∧ ¬ ValidKM s.cfg s.k s.m ∧ t = s.raise .invalidParameters) ∨
    (s.mvalid = false ∧ ValidKM s.cfg s.k s.m ∧ s.cfg.ibufBytes < s.len ∧ t = s.raise .capacityExceeded) ∨
    (s.mvalid = false ∧ ValidKM s.cfg s.k s.m ∧ s.len ≤ s.cfg.ibufBytes ∧ s.len ≠ s.k * s.m ∧
      t = s.raise .invalidBlockSize) ∨
    (s.mvalid = false ∧ ValidKM s.cfg s.k s.m ∧ s.len ≤ s.cfg.ibufBytes ∧ s.len = s.k * s.m ∧
      t = (s.installMatrix (s.ibuf.readBytes 0 (s.k * s.m))).complete 0 0) := by
  simp only [exec, execLoadMatrix] at h
  split at h
  · next h1 => exact .inl ⟨h1, by cases h; rfl⟩
  · next h1 =>
    rw [Bool.not_eq_true] at h1
    split at h
    · next h2 => exact .inr (.inl ⟨h1, h2, by cases h; rfl⟩)
    · next h2 =>
      rw [not_not] at h2
      split at h
      · next h3 => exact .inr (.inr (.inl ⟨h1, h2, h3, by cases h; rfl⟩))
      · next h3 =>
        split at h
        · next h4 => exact .inr (.inr (.inr (.inl ⟨h1, h2, by omega, h4, by cases h; rfl⟩)))
        · next h4 => exact .inr (.inr (.inr (.inr ⟨h1, h2, by omega, by omega, by cases h; rfl⟩)))

/-- Everything EXPORT_MATRIX can do. -/
theorem execExportMatrix_cases {s t : State} (h : exec .exportMatrix s = .next t) :
    (s.mvalid = false ∧ t = s.raise .noMatrix) ∨
    (s.mvalid = true ∧ s.cfg.obufBytes < s.k * s.m ∧ t = s.raise .capacityExceeded) ∨
    (s.mvalid = true ∧ s.k * s.m ≤ s.cfg.obufBytes ∧
      t = { s with obuf := s.obuf.writeBytes 0 s.matrixBytes }.complete (s.k * s.m) 0) := by
  simp only [exec, execExportMatrix] at h
  split at h
  · next h1 => exact .inl ⟨h1, by cases h; rfl⟩
  · next h1 =>
    rw [Bool.not_eq_false] at h1
    split at h
    · next h2 => exact .inr (.inl ⟨h1, h2, by cases h; rfl⟩)
    · next h2 => exact .inr (.inr ⟨h1, by omega, by cases h; rfl⟩)

/-- The one thing CLEAR_MATRIX does. -/
theorem execClearMatrix_eq (s : State) :
    exec .clearMatrix s = .next ({ s with mram := Memory.filled 0, mvalid := false }.complete 0 0) := rfl

/-- Everything ENCODE can do. -/
theorem execEncode_cases {s t : State} (h : exec .encode s = .next t) :
    (s.mvalid = false ∧ t = s.raise .noMatrix) ∨
    (s.mvalid = true ∧ s.cfg.ibufBytes < s.len ∧ t = s.raise .capacityExceeded) ∨
    (s.mvalid = true ∧ s.len ≤ s.cfg.ibufBytes ∧ s.len % s.k ≠ 0 ∧ t = s.raise .invalidBlockSize) ∨
    (s.mvalid = true ∧ s.len ≤ s.cfg.ibufBytes ∧ s.len % s.k = 0 ∧
      s.cfg.obufBytes < s.len / s.k * (s.k + s.m) ∧ t = s.raise .capacityExceeded) ∨
    (s.mvalid = true ∧ s.len ≤ s.cfg.ibufBytes ∧ s.len % s.k = 0 ∧
      s.len / s.k * (s.k + s.m) ≤ s.cfg.obufBytes ∧
      t = { s with obuf := s.obuf.writeBytes 0 (s.encodedBlocks (s.len / s.k)) }.complete
        (s.len / s.k * (s.k + s.m)) (s.len / s.k)) := by
  simp only [exec, execEncode] at h
  split at h
  · next h1 => exact .inl ⟨h1, by cases h; rfl⟩
  · next h1 =>
    rw [Bool.not_eq_false] at h1
    split at h
    · next h2 => exact .inr (.inl ⟨h1, h2, by cases h; rfl⟩)
    · next h2 =>
      split at h
      · next h3 => exact .inr (.inr (.inl ⟨h1, by omega, h3, by cases h; rfl⟩))
      · next h3 =>
        rw [not_not] at h3
        split at h
        · next h4 => exact .inr (.inr (.inr (.inl ⟨h1, by omega, h3, h4, by cases h; rfl⟩)))
        · next h4 => exact .inr (.inr (.inr (.inr ⟨h1, by omega, h3, by omega, by cases h; rfl⟩)))

/-- The size checks of DECODE have passed (42 R167, up to the gate). -/
structure DecodeSizes (s : State) : Prop where
  held : s.mvalid = true
  count : s.n ≤ s.cfg.nMax
  input : s.len ≤ s.cfg.ibufBytes
  lengths : ∀ i < s.n, (s.bltEntry i).toNat = s.k + s.m
  total : s.len = s.n * (s.k + s.m)
  output : s.n * s.k ≤ s.cfg.obufBytes

/-- Everything DECODE can do. -/
theorem execDecode_cases {s t : State} (h : exec .decode s = .next t) :
    (s.mvalid = false ∧ t = s.raise .noMatrix) ∨
    (s.mvalid = true ∧ (s.cfg.nMax < s.n ∨ s.cfg.ibufBytes < s.len) ∧ t = s.raise .capacityExceeded) ∨
    (s.mvalid = true ∧ s.n ≤ s.cfg.nMax ∧ s.len ≤ s.cfg.ibufBytes ∧
      ((∃ i < s.n, (s.bltEntry i).toNat ≠ s.k + s.m) ∨ s.len ≠ s.n * (s.k + s.m)) ∧
      t = s.raise .invalidBlockSize) ∨
    (s.mvalid = true ∧ s.n ≤ s.cfg.nMax ∧ s.len ≤ s.cfg.ibufBytes ∧
      (∀ i < s.n, (s.bltEntry i).toNat = s.k + s.m) ∧ s.len = s.n * (s.k + s.m) ∧
      s.cfg.obufBytes < s.n * s.k ∧ t = s.raise .capacityExceeded) ∨
    (DecodeSizes s ∧ s.m ≠ s.k ∧ t = s.raise .matrixNotInvertible) ∨
    (DecodeSizes s ∧ s.m = s.k ∧ t = decodeGated s) := by
  simp only [exec, execDecode] at h
  split at h
  · next h1 => exact .inl ⟨h1, by cases h; rfl⟩
  · next h1 =>
    rw [Bool.not_eq_false] at h1
    split at h
    · next h2 => exact .inr (.inl ⟨h1, h2, by cases h; rfl⟩)
    · next h2 =>
      rw [not_or, not_lt, not_lt] at h2
      split at h
      · next h3 =>
        rw [← Bool.not_eq_true, State.lengthsOk_iff] at h3
        push Not at h3
        exact .inr (.inr (.inl ⟨h1, h2.1, h2.2, .inl h3, by cases h; rfl⟩))
      · next h3 =>
        rw [Bool.not_eq_false, State.lengthsOk_iff] at h3
        split at h
        · next h4 => exact .inr (.inr (.inl ⟨h1, h2.1, h2.2, .inr h4, by cases h; rfl⟩))
        · next h4 =>
          rw [not_not] at h4
          split at h
          · next h5 => exact .inr (.inr (.inr (.inl ⟨h1, h2.1, h2.2, h3, h4, h5, by cases h; rfl⟩)))
          · next h5 =>
            have hs : DecodeSizes s := ⟨h1, h2.1, h2.2, h3, h4, by omega⟩
            split at h
            · next h6 => exact .inr (.inr (.inr (.inr (.inl ⟨hs, h6, by cases h; rfl⟩))))
            · next h6 => exact .inr (.inr (.inr (.inr (.inr ⟨hs, by omega, by cases h; rfl⟩))))

/-- Everything DECODE can do from the gate on. -/
theorem decodeGated_cases (s : State) :
    (eliminates s.k s.matrix = false ∧ decodeGated s = s.scratchWram.raise .matrixNotInvertible) ∨
    (eliminates s.k s.matrix = true ∧ ∃ i, s.firstMismatch = some i ∧ decodeGated s = s.scratchWram.raiseAt i) ∨
    (eliminates s.k s.matrix = true ∧ s.firstMismatch = none ∧
      decodeGated s =
        { s.scratchWram with obuf := s.obuf.writeBytes 0 s.decodedData }.complete (s.n * s.k) s.n) := by
  unfold decodeGated
  split
  · next h1 => exact .inl ⟨h1, rfl⟩
  · next h1 =>
    rw [Bool.not_eq_false] at h1
    cases h : s.firstMismatch with
    | some i => exact .inr (.inl ⟨h1, i, rfl, rfl⟩)
    | none => exact .inr (.inr ⟨h1, rfl, rfl⟩)

/-- Everything a command can do: nothing yet (GEN_MATRIX without its bytes), an error before any work, the gate or a
mismatch of DECODE, or the success of one of the six. -/
theorem exec_cases {i : Instr} {s t : State} (h : exec i s = .next t) :
    (t = s ∧ i = .genMatrix ∧ s.entropy.length < s.k * s.m) ∨
    (∃ e, e ≠ ErrCode.noError ∧ t = s.raise e ∧ e ≠ .integrityFailure ∧ e ≠ .illegalCommand) ∨
    (i = .decode ∧ t = s.scratchWram.raise .matrixNotInvertible) ∨
    (i = .decode ∧ ∃ j, s.firstMismatch = some j ∧ t = s.scratchWram.raiseAt j) ∨
    (i = .decode ∧ s.n * s.k ≤ s.cfg.obufBytes ∧ s.n ≤ s.cfg.nMax ∧
      t = { s.scratchWram with obuf := s.obuf.writeBytes 0 s.decodedData }.complete (s.n * s.k) s.n) ∨
    (i = .encode ∧ s.len / s.k * (s.k + s.m) ≤ s.cfg.obufBytes ∧
      t = { s with obuf := s.obuf.writeBytes 0 (s.encodedBlocks (s.len / s.k)) }.complete
        (s.len / s.k * (s.k + s.m)) (s.len / s.k)) ∨
    (i = .exportMatrix ∧ s.k * s.m ≤ s.cfg.obufBytes ∧
      t = { s with obuf := s.obuf.writeBytes 0 s.matrixBytes }.complete (s.k * s.m) 0) ∨
    (i = .clearMatrix ∧ t = { s with mram := Memory.filled 0, mvalid := false }.complete 0 0) ∨
    (i = .loadMatrix ∧ ValidKM s.cfg s.k s.m ∧
      t = (s.installMatrix (s.ibuf.readBytes 0 (s.k * s.m))).complete 0 0) ∨
    (i = .genMatrix ∧ ValidKM s.cfg s.k s.m ∧
      t = ((s.installMatrix (s.entropy.take (s.k * s.m))).takeEntropy (s.k * s.m)).complete 0 0) := by
  cases i
  · rcases execGenMatrix_cases h with ⟨-, rfl⟩ | ⟨-, -, rfl⟩ | ⟨h1, h2, h3, rfl⟩ | ⟨h1, h2, -, rfl⟩
    · exact .inr (.inl ⟨_, by simp, rfl, by simp, by simp⟩)
    · exact .inr (.inl ⟨_, by simp, rfl, by simp, by simp⟩)
    · exact .inl ⟨rfl, rfl, h3⟩
    · iterate 9 right
      exact ⟨rfl, h2, rfl⟩
  · rcases execLoadMatrix_cases h with ⟨-, rfl⟩ | ⟨-, -, rfl⟩ | ⟨_, _, _, rfl⟩ | ⟨-, -, -, -, rfl⟩ | ⟨h1, h2, -, -, rfl⟩
    · exact .inr (.inl ⟨_, by simp, rfl, by simp, by simp⟩)
    · exact .inr (.inl ⟨_, by simp, rfl, by simp, by simp⟩)
    · exact .inr (.inl ⟨_, by simp, rfl, by simp, by simp⟩)
    · exact .inr (.inl ⟨_, by simp, rfl, by simp, by simp⟩)
    · iterate 8 right
      left; exact ⟨rfl, h2, rfl⟩
  · rcases execExportMatrix_cases h with ⟨-, rfl⟩ | ⟨-, -, rfl⟩ | ⟨_, h2, rfl⟩
    · exact .inr (.inl ⟨_, by simp, rfl, by simp, by simp⟩)
    · exact .inr (.inl ⟨_, by simp, rfl, by simp, by simp⟩)
    · iterate 6 right
      left; exact ⟨rfl, h2, rfl⟩
  · cases h; iterate 7 right
    left; exact ⟨rfl, rfl⟩
  · rcases execEncode_cases h with ⟨-, rfl⟩ | ⟨-, -, rfl⟩ | ⟨_, _, _, rfl⟩ | ⟨-, -, -, -, rfl⟩ | ⟨-, -, -, h2, rfl⟩
    · exact .inr (.inl ⟨_, by simp, rfl, by simp, by simp⟩)
    · exact .inr (.inl ⟨_, by simp, rfl, by simp, by simp⟩)
    · exact .inr (.inl ⟨_, by simp, rfl, by simp, by simp⟩)
    · exact .inr (.inl ⟨_, by simp, rfl, by simp, by simp⟩)
    · iterate 5 right
      left; exact ⟨rfl, h2, rfl⟩
  · rcases execDecode_cases h with ⟨-, rfl⟩ | ⟨-, -, rfl⟩ | ⟨_, _, _, _, rfl⟩ | ⟨-, -, -, -, -, -, rfl⟩ | ⟨-, -, rfl⟩ | ⟨hS, h2, rfl⟩
    · exact .inr (.inl ⟨_, by simp, rfl, by simp, by simp⟩)
    · exact .inr (.inl ⟨_, by simp, rfl, by simp, by simp⟩)
    · exact .inr (.inl ⟨_, by simp, rfl, by simp, by simp⟩)
    · exact .inr (.inl ⟨_, by simp, rfl, by simp, by simp⟩)
    · exact .inr (.inl ⟨_, by simp, rfl, by simp, by simp⟩)
    · rcases decodeGated_cases s with ⟨-, h⟩ | ⟨-, i, hi, h⟩ | ⟨-, -, h⟩
      · exact .inr (.inr (.inl ⟨rfl, h⟩))
      · exact .inr (.inr (.inr (.inl ⟨rfl, i, hi, h⟩)))
      · iterate 4 right
        left; exact ⟨rfl, hS.output, hS.count, h⟩

/-- A command always answers a next state: nothing stops the block. -/
theorem exec_next (i : Instr) (s : State) : ∃ t, exec i s = .next t := by
  cases i <;> simp only [exec, execGenMatrix, execLoadMatrix, execExportMatrix, execClearMatrix, execEncode,
    execDecode] <;> (try split_ifs) <;> exact ⟨_, rfl⟩

/-! ## The Core's turn and the step -/

/-- Everything the Core's turn can do. -/
theorem coreTurn_cases {s t : State} (h : coreTurn s = .next t) :
    (s.busy = false ∧ t = s) ∨
    (s.busy = true ∧ (∃ i, decodeWord s.cmdw = .ok i ∧ exec i s = .next t)) ∨
    (s.busy = true ∧ (∃ e, decodeWord s.cmdw = .error e) ∧ t = s.raise .illegalCommand) := by
  unfold coreTurn at h
  split at h
  · next hb =>
    split at h
    · next i hi => exact .inr (.inl ⟨hb, i, hi, h⟩)
    · next e he => exact .inr (.inr ⟨hb, ⟨e, he⟩, by cases h; rfl⟩)
  · next hb => exact .inl ⟨by simpa using hb, by cases h; rfl⟩

/-- The Core's turn with a command in flight is that command. -/
theorem coreTurn_of_ok {s : State} {i : Instr} (hb : s.busy = true) (hi : decodeWord s.cmdw = .ok i) :
    coreTurn s = exec i s := by
  unfold coreTurn
  rw [if_pos hb, hi]

/-- The Core's turn with a word in flight that is no command. -/
theorem coreTurn_of_error {s : State} {e : DecodeError} (hb : s.busy = true) (he : decodeWord s.cmdw = .error e) :
    coreTurn s = .next (s.raise .illegalCommand) := by
  unfold coreTurn
  rw [if_pos hb, he]

/-- The Core's turn with no command in flight. -/
theorem coreTurn_of_idle {s : State} (hb : s.busy = false) : coreTurn s = .next s := by
  unfold coreTurn
  rw [if_neg (by simp [hb])]

theorem coreTurn_next (s : State) : ∃ t, coreTurn s = .next t := by
  unfold coreTurn
  split
  · split
    · exact exec_next _ _
    · exact ⟨_, rfl⟩
  · exact ⟨_, rfl⟩

/-- With no input left the step is the Core's turn. -/
theorem step_of_empty {s : State} (h : s.inbox = []) : step s = coreTurn s := by
  unfold step nextEvent
  rw [h]

/-- The step serves the first input. -/
theorem step_of_cons {s : State} {x : Input} {rest : List Input} (h : s.inbox = x :: rest) :
    step s = serve x { s with inbox := rest } := by
  unfold step nextEvent
  rw [h]

/-- Everything a step can do. -/
theorem step_cases {s t : State} (h : step s = .next t) :
    (s.inbox = [] ∧ coreTurn s = .next t) ∨
    (∃ rest, s.inbox = .core :: rest ∧ coreTurn { s with inbox := rest } = .next t) ∨
    (∃ a rest, s.inbox = .access a :: rest ∧ t = { s with inbox := rest }.hostAccess a) ∨
    (∃ rest, s.inbox = .rst :: rest ∧ t = { s with inbox := rest }.restart) ∨
    (∃ b rest, s.inbox = .entropy b :: rest ∧ t = { s with inbox := rest }.supply b) := by
  unfold step nextEvent at h
  split at h
  · next hi => exact .inl ⟨hi, h⟩
  · next x rest hi =>
    cases x with
    | core => exact .inr (.inl ⟨rest, hi, h⟩)
    | access a => exact .inr (.inr (.inl ⟨a, rest, hi, by simp only [serve] at h; cases h; rfl⟩))
    | rst => exact .inr (.inr (.inr (.inl ⟨rest, hi, by simp only [serve] at h; cases h; rfl⟩)))
    | entropy b => exact .inr (.inr (.inr (.inr ⟨b, rest, hi, by simp only [serve] at h; cases h; rfl⟩)))

/-- A step always answers a next state. -/
theorem step_next (s : State) : ∃ t, step s = .next t := by
  unfold step nextEvent
  split
  · exact coreTurn_next s
  · next x rest hi =>
    cases x with
    | core => exact coreTurn_next _
    | access a => exact ⟨_, rfl⟩
    | rst => exact ⟨_, rfl⟩
    | entropy b => exact ⟨_, rfl⟩

/-! ## Host accesses -/

/-- What no write to a register touches. -/
structure UntouchedByHost (s t : State) : Prop where
  cfg : t.cfg = s.cfg
  mvalid : t.mvalid = s.mvalid
  outLen : t.outLen = s.outLen
  blkOut : t.blkOut = s.blkOut
  failIndex : t.failIndex = s.failIndex
  mram : t.mram = s.mram
  wram : t.wram = s.wram
  obuf : t.obuf = s.obuf
  entropy : t.entropy = s.entropy
  inbox : t.inbox = s.inbox

/-- Everything a write to a register can do. -/
theorem writeReg_cases (s : State) (v : Word) (r : Reg) :
    s.writeReg v r = s ∨ ((s.busy = true ∨ s.mvalid = true) ∧ s.writeReg v r = s.dropWrite) ∨
    (r = .ctrl ∧ s.busy = false ∧ s.writeReg v r = s.accept v) ∨
    (r = .intStatus ∧ s.writeReg v r = s.clearEvents v) ∨
    (r = .intEnable ∧ s.writeReg v r = s.enableEvents v) ∨
    (s.busy = false ∧ s.mvalid = false ∧ s.writeReg v r = { s with paramK := v }) ∨
    (s.busy = false ∧ s.mvalid = false ∧ s.writeReg v r = { s with paramM := v }) ∨
    (s.busy = false ∧ s.writeReg v r = { s with inLen := v }) ∨
    (s.busy = false ∧ s.writeReg v r = { s with blkN := v }) := by
  cases r <;> simp only [State.writeReg, State.unlessBusy, State.unlessHeld] <;> (try split_ifs) <;> simp_all

/-- Everything a host access can do, but for the answer: nothing (a read, a bus error, an ignored write), a used draw
(an OBUF read while BUSY), a write to a buffer dropped while BUSY, a write to a register, or stored bytes. -/
theorem hostAccess_cases (s : State) (a : Access) :
    ∃ u x d, s.hostAccess a = State.answer u x d ∧
      (u = s ∨ (s.busy = true ∧ u = s.drawn) ∨
       (s.busy = true ∧ (∃ off w v, a = .write off w v) ∧ u = s.dropWrite) ∨
       (∃ v r off, a = .write off 4 v ∧ targetOf s.cfg off 4 = some (.reg (localOffset off)) ∧
          regAt (localOffset off) = some r ∧ u = s.writeReg v r) ∨
       (s.busy = false ∧ ∃ off w v, ByteAccess s.cfg.ibufBytes (localOffset off) w ∧
          u = { s with ibuf := s.ibuf.writeBytes (localOffset off) (bytesOfValue v w) }) ∨
       (s.busy = false ∧ ∃ off w v, WordAccess (4 * s.cfg.nMax) (localOffset off) w ∧
          u = { s with blt := s.blt.writeBytes (localOffset off) (bytesOfValue v w) })) := by
  cases a with
  | read off w =>
    simp only [State.hostAccess, State.hostRead]
    split
    · exact ⟨s, _, _, rfl, .inl rfl⟩
    · exact ⟨s, _, _, rfl, .inl rfl⟩
    · exact ⟨s, _, _, rfl, .inl rfl⟩
    · exact ⟨s, _, _, rfl, .inl rfl⟩
    · split
      · next hb => exact ⟨s.drawn, _, _, rfl, .inr (.inl ⟨hb, rfl⟩)⟩
      · exact ⟨s, _, _, rfl, .inl rfl⟩
  | write off w v =>
    simp only [State.hostAccess, State.hostWrite]
    split
    · exact ⟨s, _, _, rfl, .inl rfl⟩
    · next x hx =>
      refine ⟨_, _, _, rfl, ?_⟩
      have hx' := targetOf_eq_some.1 hx
      simp only [Target.reg.injEq, reduceCtorEq, and_false, or_false] at hx'
      obtain ⟨-, ⟨rfl, -⟩, rfl⟩ := hx'
      unfold State.writeRegAt
      split
      · next r hr => exact .inr (.inr (.inr (.inl ⟨v, r, off, rfl, hx, hr, rfl⟩)))
      · exact .inl rfl
    · next x hx =>
      refine ⟨_, _, _, rfl, ?_⟩
      have hx' := targetOf_eq_some.1 hx
      simp only [Target.blt.injEq, reduceCtorEq, and_false, or_false, false_or] at hx'
      obtain ⟨-, hw, rfl⟩ := hx'
      unfold State.unlessBusy
      split
      · next hb => exact .inr (.inr (.inl ⟨hb, ⟨off, w, v, rfl⟩, rfl⟩))
      · next hb => exact .inr (.inr (.inr (.inr (.inr ⟨by simpa using hb, off, w, v, hw, rfl⟩))))
    · next x hx =>
      refine ⟨_, _, _, rfl, ?_⟩
      have hx' := targetOf_eq_some.1 hx
      simp only [Target.ibuf.injEq, reduceCtorEq, and_false, or_false, false_or] at hx'
      obtain ⟨-, hw, rfl⟩ := hx'
      unfold State.unlessBusy
      split
      · next hb => exact .inr (.inr (.inl ⟨hb, ⟨off, w, v, rfl⟩, rfl⟩))
      · next hb => exact .inr (.inr (.inr (.inr (.inl ⟨by simpa using hb, off, w, v, hw, rfl⟩))))
    · exact ⟨s, _, _, rfl, .inl rfl⟩

/-- No host access touches these fields. -/
theorem hostAccess_untouched (s : State) (a : Access) : UntouchedByHost s (s.hostAccess a) := by
  obtain ⟨u, x, d, he, hu⟩ := hostAccess_cases s a
  rw [he]
  rcases hu with rfl | ⟨-, rfl⟩ | ⟨-, -, rfl⟩ | ⟨v, r, off, -, -, -, rfl⟩ | ⟨-, off, w, v, -, rfl⟩ | ⟨-, off, w, v, -, rfl⟩
  · constructor <;> rfl
  · constructor <;> rfl
  · constructor <;> rfl
  · rcases writeReg_cases s v r with h | ⟨-, h⟩ | ⟨-, -, h⟩ | ⟨-, h⟩ | ⟨-, h⟩ | ⟨-, -, h⟩ | ⟨-, -, h⟩ | ⟨-, h⟩ | ⟨-, h⟩ <;>
      rw [h] <;> constructor <;> rfl
  · constructor <;> rfl
  · constructor <;> rfl

end Sys2Proof.Machine
end

