-- ==== Sys2Proof/Laws/Config.lean ====
section
/-! SUPPORT. The check on the parameters decides their constraints (spec 00 R6). -/

namespace Sys2Proof

theorem Config.wf_iff (c : Config) : c.wf = true ↔ c.WellFormed := by
  constructor
  · intro h
    simp only [Config.wf, Bool.and_eq_true, decide_eq_true_eq] at h
    obtain ⟨⟨⟨⟨⟨⟨⟨⟨⟨⟨⟨a, b⟩, c⟩, d⟩, e⟩, f⟩, g⟩, h⟩, i⟩, j⟩, k⟩, l⟩ := h
    exact ⟨a, b, c, d, e, f, g, h, i, j, k, l⟩
  · rintro ⟨a, b, c, d, e, f, g, h, i, j, k, l⟩
    simp only [Config.wf, Bool.and_eq_true, decide_eq_true_eq]
    exact ⟨⟨⟨⟨⟨⟨⟨⟨⟨⟨⟨a, b⟩, c⟩, d⟩, e⟩, f⟩, g⟩, h⟩, i⟩, j⟩, k⟩, l⟩

end Sys2Proof
end

