-- ==== Sys2Proof/Machine/HostProgram.lean ====
section
/-! DEFINITION. Host programs (spec 30 R96, R97): the statements, the accesses they expand to, the Host that runs them
access by access beside the block, and when its run has ended (70 R244). The Host is outside the block, so it stands
beside `State` here and not in it (log entry 24). -/

namespace Sys2Proof.Machine

/-- The offset `BLT+a` (30 R96). -/
def bltOffset (a : Nat) : Word := BitVec.ofNat 32 (0x10000000 + a)

/-- The offset `IBUF+a` (30 R96). -/
def ibufOffset (a : Nat) : Word := BitVec.ofNat 32 (0x20000000 + a)

/-- The offset `OBUF+a` (30 R96). -/
def obufOffset (a : Nat) : Word := BitVec.ofNat 32 (0x30000000 + a)

/-- The statements of a host program (30 R96, R97). -/
inductive HostStmt where
  | wr32 (off v : Word)
  | wr8 (off : Word) (v : Byte)
  | rd32 (off : Word) (name : String)
  | rd8 (off : Word) (name : String)
  | cmd (i : Instr)
  | wait
  | run (i : Instr)
  | fillIbuf (a : Nat) (bytes : List Byte)
  | fillBlt (lengths : List Word)
  | check (off v : Word)
deriving DecidableEq, Repr

/-- What the Host does one access at a time, once the pseudo-statements are expanded (30 R97). -/
inductive HostAct where
  | write (off : Word) (width : Nat) (v : Word)
  | read (off : Word) (width : Nat) (name : String)
  /-- The loop of `wait`: `rd32 STATUS -> s`, repeated while `s[0] = 1`. -/
  | poll
  | check (off v : Word)
deriving DecidableEq, Repr

/-- `cmd MNEMONIC` (30 R96): a 4-byte write of the command's word to CTRL. -/
def cmdAct (i : Instr) : HostAct := .write (Reg.offset .ctrl) 4 (encodeWord i)

/-- The expansion of a statement (30 R96, R97). -/
def HostStmt.acts : HostStmt → List HostAct
  | .wr32 off v => [.write off 4 v]
  | .wr8 off v => [.write off 1 (v.setWidth 32)]
  | .rd32 off name => [.read off 4 name]
  | .rd8 off name => [.read off 1 name]
  | .cmd i => [cmdAct i]
  | .wait => [.poll]
  | .run i => [cmdAct i, .poll]
  | .fillIbuf a bytes => bytes.mapIdx fun t b => .write (ibufOffset (a + t)) 1 (b.setWidth 32)
  | .fillBlt lengths => lengths.mapIdx fun i l => .write (bltOffset (4 * i)) 4 l
  | .check off v => [.check off v]

/-- The bus access of one act (30 R96). -/
def HostAct.access : HostAct → Access
  | .write off width v => .write off width v
  | .read off width _ => .read off width
  | .poll => .read (Reg.offset .status) 4
  | .check off _ => .read off 4

/-- The Host beside the block, in the middle of a program. -/
structure HostRun where
  /-- The block. -/
  block : State
  /-- What the program still has to do. -/
  acts : List HostAct
  /-- The values read so far under their names, the latest first (30 R96). -/
  names : List (String × Word)
  /-- Every `check` so far has read its value (30 R97). -/
  checked : Bool
deriving DecidableEq, Repr

/-- A program is about to run on a block. -/
def HostRun.start (s : State) (program : List HostStmt) : HostRun :=
  { block := s, acts := program.flatMap HostStmt.acts, names := [], checked := true }

/-- Who moves next in the interleaving (20 R78): the Host, with its next access, or another agent, with an input of its
own (the Core's turn, an entropy byte, rst). -/
inductive HostEvent where
  | host
  | other (x : Input)
deriving DecidableEq, Repr

/-- The data value of the block's last answer; 0 where there is none, which no state after an access is. -/
def State.answered (s : State) : Word :=
  match s.response with
  | some r => r.data
  | none => 0

/-- The Host after the block has answered `act`, which comes before `later`: a `poll` whose answer shows `BUSY = 1` is
still to do, and every other act is done (30 R97). DESIGN CHOICE (log entry 24): the Host does not look at the error
response of an access, so a read or a check that ends in a bus error takes the data value 0 of 20 R63. -/
def HostRun.react (r : HostRun) (act : HostAct) (later : List HostAct) (t : State) : HostRun :=
  match act with
  | .write _ _ _ => { r with block := t, acts := later }
  | .read _ _ name => { r with block := t, acts := later, names := (name, t.answered) :: r.names }
  | .poll => if t.answered.getLsbD 0 then { r with block := t } else { r with block := t, acts := later }
  | .check _ v =>
    { r with block := t, acts := later, checked := r.checked && t.answered == v }

/-- The step of the machine in which `x` is the next input. -/
def State.stepWith (s : State) (x : Input) : Host.Outcome State Fault Refusal := step { s with inbox := x :: s.inbox }

/-- One event of the interleaving. A Host whose program is done makes no access. -/
def HostRun.step (r : HostRun) (e : HostEvent) : Host.Outcome HostRun Fault Refusal :=
  match e with
  | .other x =>
    match r.block.stepWith x with
    | .next t => .next { r with block := t }
    | .fault f => .fault f
    | .refused f => .refused f
  | .host =>
    match r.acts with
    | [] => .next r
    | act :: later =>
      match r.block.stepWith (.access act.access) with
      | .next t => .next (r.react act later t)
      | .fault f => .fault f
      | .refused f => .refused f

/-- The events of a run, in their order. -/
def HostRun.run (r : HostRun) : List HostEvent → Host.Outcome HostRun Fault Refusal
  | [] => .next r
  | e :: es =>
    match r.step e with
    | .next q => q.run es
    | .fault f => .fault f
    | .refused f => .refused f

/-- The run has ended: the last statement has executed and `STATUS.BUSY = 0` (70 R244). -/
def HostRun.ended (r : HostRun) : Bool := r.acts.isEmpty && !r.block.busy

end Sys2Proof.Machine
end

