-- ==== Sys2Proof/Laws/HostProgram.lean ====
section
/-! SUPPORT. What one event of a host program's run does: it is one step of the machine, and the loop of `wait` is left
exactly at a poll that reads BUSY = 0 (spec 30 R97). -/

namespace Sys2Proof.Machine

/-- The step with an input put first serves that input. -/
theorem State.stepWith_eq (s : State) (x : Input) : s.stepWith x = serve x s := rfl

/-- Every event of a run gives a next state. -/
theorem HostRun.step_next (r : HostRun) (e : HostEvent) : ∃ q, r.step e = .next q := by
  cases e with
  | other x =>
    obtain ⟨t, ht⟩ := Sys2Proof.Machine.step_next { r.block with inbox := x :: r.block.inbox }
    exact ⟨{ r with block := t }, by simp only [HostRun.step, State.stepWith, ht]⟩
  | host =>
    simp only [HostRun.step]
    cases r.acts with
    | nil => exact ⟨r, rfl⟩
    | cons act later => exact ⟨_, rfl⟩

/-- A read of `STATUS` shows `BUSY` in bit 0 of its answer (10 R24). -/
theorem State.poll_answer (s : State) :
    ∃ w : Word, s.hostAccess HostAct.poll.access = s.answer false w ∧ w.getLsbD 0 = s.busy :=
  ⟨s.statusWord, rfl, by cases h : s.busy <;> simp [State.statusWord, h]⟩

/-- A poll while BUSY = 1 leaves the loop to do; the block changes in its answer alone. -/
theorem HostRun.poll_again {r : HostRun} {later : List HostAct} (ha : r.acts = .poll :: later)
    (hb : r.block.busy = true) : ∃ w, r.step .host = .next { r with block := r.block.answer false w } := by
  obtain ⟨w, hw, h0⟩ := r.block.poll_answer
  refine ⟨w, ?_⟩
  simp only [HostRun.step, ha, State.stepWith_eq, serve, hw, HostRun.react]
  rw [if_pos (show ((r.block.answer false w).answered).getLsbD 0 = true from h0.trans hb), ← ha]

/-- A poll while BUSY = 0 leaves the loop: no further poll of this `wait` is made. -/
theorem HostRun.poll_done {r : HostRun} {later : List HostAct} (ha : r.acts = .poll :: later)
    (hb : r.block.busy = false) :
    ∃ w, r.step .host = .next { r with block := r.block.answer false w, acts := later } := by
  obtain ⟨w, hw, h0⟩ := r.block.poll_answer
  refine ⟨w, ?_⟩
  simp only [HostRun.step, ha, State.stepWith_eq, serve, hw, HostRun.react]
  rw [if_neg]
  rw [show ((r.block.answer false w).answered).getLsbD 0 = false from h0.trans hb]
  decide

end Sys2Proof.Machine
end

