-- ==== Sys2Proof/Laws/PerInstr.lean ====
section
/-! SUPPORT. What holds of every command as syntax, one lemma per constructor: it is well formed, its word carries its
opcode in byte 0 and zeros above (spec 30 R90, R91), and the decoder reads the word back (30 R92, R95). -/

namespace Sys2Proof.Laws.Encoding

/-- The facts about a command's word and bytes. -/
def Statement (i : Instr) : Prop :=
  i.wf = true ∧ opcField (encodeWord i) = opcodeOf i ∧ rsvdField (encodeWord i) = 0 ∧
  encode i = [opcodeOf i, 0, 0, 0] ∧ decodeWord (encodeWord i) = .ok i ∧ decode (encode i) = .ok i

theorem genMatrix : Statement .genMatrix := by unfold Statement; decide

theorem loadMatrix : Statement .loadMatrix := by unfold Statement; decide

theorem exportMatrix : Statement .exportMatrix := by unfold Statement; decide

theorem clearMatrix : Statement .clearMatrix := by unfold Statement; decide

theorem encode : Statement .encode := by unfold Statement; decide

theorem decode : Statement .decode := by unfold Statement; decide

end Sys2Proof.Laws.Encoding
end

