-- ==== Sys2Proof/Tests/Slice0.lean ====
section
/-! SUPPORT. Tests: words written out from the spec, ill-formed parameters refused, one-step vectors of spec 95 (each
test names its vector or rule), and for every statement with hypotheses a concrete state that meets them. -/

namespace Sys2Proof.Tests

open Sys2Proof.Machine

/-! ## Helpers -/

/-- After reset, with `k`, `m`, the bytes of IBUF from 0 on and their number in IN_LEN. -/
def idle (k m : Nat) (input : List Byte) : State :=
  { State.reset with
    paramK := BitVec.ofNat 32 k
    paramM := BitVec.ofNat 32 m
    inLen := BitVec.ofNat 32 input.length
    ibuf := (Memory.unknown 2).writeBytes 0 input }

/-- The same, with a matrix held, given row-major. -/
def holding (k m : Nat) (matrix input : List Byte) : State :=
  { idle k m input with mvalid := true, mram := (Memory.unknown 0).writeBytes 0 matrix }

/-- The same state with the stated block lengths. -/
def withBlocks (lengths : List Nat) (s : State) : State :=
  { s with
    blkN := BitVec.ofNat 32 lengths.length
    blt := (Memory.unknown 4).writeBytes 0 (lengths.flatMap fun l => bytesOfValue (BitVec.ofNat 32 l) 4) }

/-- The same state with a command word in flight and inputs to come. -/
def running (w : Word) (inbox : List Input) (s : State) : State := { s.accept w with inbox := inbox }

/-- A fact about the state an outcome gives. -/
def after (o : Host.Outcome State Fault Refusal) (p : State → Bool) : Bool :=
  match o with
  | .next t => p t
  | .fault _ => false
  | .refused _ => false

/-- ENCODE's input of V-E1. -/
def encodeInput : State := holding 2 2 [1, 2, 3, 7] [10, 20, 30, 40]

/-- DECODE's input of V-D1. -/
def decodeInput : State :=
  withBlocks [4, 4] (holding 2 2 [1, 2, 3, 7] [10, 20, 70, 160, 30, 40, 150, 84])

/-- V-D1's input with parity byte 1 of block 0 changed from 160 to 161 (V-D2). -/
def tamperedInput : State :=
  withBlocks [4, 4] (holding 2 2 [1, 2, 3, 7] [10, 20, 70, 161, 30, 40, 150, 84])

/-- DECODE's input of one block under a matrix with an even determinant (V-D6). -/
def singularInput : State := withBlocks [4] (holding 2 2 [3, 1, 1, 3] [1, 2, 3, 4])

/-- Whether an access is permitted, as a check that runs. -/
theorem permitted_iff (c : Config) (off : Word) (width : Nat) :
    Permitted c off width ↔ (targetOf c off width).isSome = true := by
  rw [Option.isSome_iff_ne_none, ne_eq, targetOf_eq_none, not_not]

/-! ## Decoding (30 R90 to R95): each word written out, OPC in bits [7:0], RSVD in bits [31:8] -/

theorem test_decode_genMatrix : decode [0x01, 0x00, 0x00, 0x00] = .ok .genMatrix := by decide

theorem test_decode_loadMatrix : decode [0x02, 0x00, 0x00, 0x00] = .ok .loadMatrix := by decide

theorem test_decode_exportMatrix : decode [0x03, 0x00, 0x00, 0x00] = .ok .exportMatrix := by decide

theorem test_decode_clearMatrix : decode [0x04, 0x00, 0x00, 0x00] = .ok .clearMatrix := by decide

theorem test_decode_encode : decode [0x10, 0x00, 0x00, 0x00] = .ok .encode := by decide

theorem test_decode_decode : decode [0x20, 0x00, 0x00, 0x00] = .ok .decode := by decide

/-- The words bit by bit, OPC being the last eight bits. -/
theorem test_decode_bits :
    decodeWord 0b00000000000000000000000000000001#32 = .ok .genMatrix ∧
    decodeWord 0b00000000000000000000000000000010#32 = .ok .loadMatrix ∧
    decodeWord 0b00000000000000000000000000000011#32 = .ok .exportMatrix ∧
    decodeWord 0b00000000000000000000000000000100#32 = .ok .clearMatrix ∧
    decodeWord 0b00000000000000000000000000010000#32 = .ok .encode ∧
    decodeWord 0b00000000000000000000000000100000#32 = .ok .decode := by decide

/-- V-W1 to V-W4: words that are no command. -/
theorem test_decode_rejects :
    decodeWord 0x00000011 = .error .unlistedOpcode ∧ decodeWord 0x00000110 = .error .reservedBits ∧
    decodeWord 0xFFFFFFFF = .error .reservedBits ∧ decodeWord 0x00000000 = .error .unlistedOpcode := by decide

/-- 30 R95: no shorter and no longer form. -/
theorem test_decode_length :
    decode [0x01] = .error .notOneWord ∧ decode [0x01, 0, 0, 0, 0] = .error .notOneWord := by decide

/-- The table's numbering of a row's bits is the word's. -/
theorem test_decodeTableWord :
    decodeTableWord 32 0x20 = some .decode ∧ decodeTableWord 8 0x10 = some .encode ∧
    decodeTableWord 32 0x120 = none ∧ decodeTableWord 64 0x20 = none := by decide

/-! ## Well-formedness (00 R6): a term refused for each check -/

theorem test_wf_ref : Config.ref.wf = true := by decide

theorem test_wf_kMax : { Config.ref with kMax := 0 }.wf = false ∧ { Config.ref with kMax := 2 ^ 30 + 1 }.wf = false := by
  decide

theorem test_wf_mMax : { Config.ref with mMax := 0 }.wf = false ∧ { Config.ref with mMax := 2 ^ 30 + 1 }.wf = false := by
  decide

theorem test_wf_mramBytes :
    { Config.ref with mramBytes := 0 }.wf = false ∧ { Config.ref with mramBytes := 2 ^ 32 }.wf = false := by decide

theorem test_wf_ibufBytes :
    { Config.ref with ibufBytes := 0 }.wf = false ∧ { Config.ref with ibufBytes := 2 ^ 28 + 1 }.wf = false := by decide

theorem test_wf_obufBytes :
    { Config.ref with obufBytes := 0 }.wf = false ∧ { Config.ref with obufBytes := 2 ^ 28 + 1 }.wf = false := by decide

theorem test_wf_nMax : { Config.ref with nMax := 0 }.wf = false ∧ { Config.ref with nMax := 2 ^ 26 + 1 }.wf = false := by
  decide

/-- The bounds themselves are allowed. -/
theorem test_wf_bounds :
    Config.wf { kMax := 2 ^ 30, mMax := 1, mramBytes := 2 ^ 32 - 1, ibufBytes := 2 ^ 28, obufBytes := 1, nMax := 2 ^ 26,
                digestId := 1, base := 0 } = true := by decide

theorem test_wf_commands :
    [Instr.genMatrix, .loadMatrix, .exportMatrix, .clearMatrix, .encode, .decode].all Instr.wf = true := by decide

/-! ## Commands: one step each, with the results of spec 95 -/

/-- V-G1. -/
theorem test_genMatrix_rowMajor :
    after (step (running 0x01 [] { idle 2 2 [] with entropy := [0x01, 0x02, 0x03, 0x07, 0x99] })) fun t =>
      t.statusWord = 0x00010002 ∧ t.matrix = [[1, 2], [3, 7]] ∧ t.entropy = [0x99] := by
  decide

/-- V-G3, V-G6. -/
theorem test_genMatrix_parameters :
    (after (step (running 0x01 [] (idle 0 2 []))) fun t => t.statusWord = 0x00010100) ∧
    after (step (running 0x01 [] (idle 1024 2049 []))) fun t => t.statusWord = 0x00010100 := by
  decide

/-- V-L1. -/
theorem test_loadMatrix_rowMajor :
    after (step (running 0x02 [] (idle 2 2 [1, 2, 3, 7]))) fun t =>
      t.statusWord = 0x00020002 ∧ t.matrix = [[1, 2], [3, 7]] := by
  decide

/-- V-L4, V-L5: the capacity check comes before the size check and after the parameters. -/
theorem test_loadMatrix_precedence :
    (after (step (running 0x02 [] { idle 2 2 [] with inLen := 0x04000001 })) fun t => t.err = .capacityExceeded) ∧
    after (step (running 0x02 [] { idle 0 2 [] with inLen := 0x04000001 })) fun t => t.err = .invalidParameters := by
  decide

/-- V-X1. -/
theorem test_exportMatrix_copies :
    after (step (running 0x03 [] encodeInput)) fun t =>
      t.statusWord = 0x00030002 ∧ t.obuf.readBytes 0 4 = [1, 2, 3, 7] ∧ t.outLen = 4 ∧ t.blkOut = 0 := by
  decide

/-- V-C1. -/
theorem test_clearMatrix_zeroes :
    after (step (running 0x04 [] encodeInput)) fun t =>
      t.statusWord = 0x00040000 ∧ t.mram.readBytes 0 4 = [0, 0, 0, 0] := by
  decide

/-- V-E1: the last parity byte is 340 reduced modulo 256. -/
theorem test_encode_frames :
    after (step (running 0x10 [] encodeInput)) fun t =>
      t.obuf.readBytes 0 8 = [10, 20, 70, 160, 30, 40, 150, 84] ∧ t.outLen = 8 ∧ t.blkOut = 2 := by
  decide

/-- V-E11, V-E5: the output's capacity and the input's length. -/
theorem test_encode_errors :
    (after (step (running 0x10 [] { holding 1 1 [3] [] with inLen := 0x04000000 })) fun t =>
      t.err = .capacityExceeded) ∧
    after (step (running 0x10 [] (holding 4 2 [1, 2, 3, 4, 5, 6, 7, 8] [1, 2, 3, 4, 5, 6, 7]))) fun t =>
      t.err = .invalidBlockSize ∧ t.outLen = 0 := by
  decide

/-- V-E3, V-E4, V-E13: parities that wrap. -/
theorem test_parity_wraps :
    parity 1 [255, 255, 255, 255] [[255], [255], [255], [255]] = [4] ∧
    frame 3 [3] [[7, 200, 1]] = [3, 21, 88, 3] ∧ parity 2 [255, 255] [[255, 255], [255, 255]] = [2, 2] := by decide

/-- V-D1. -/
theorem test_decode_returns :
    after (step (running 0x20 [] decodeInput)) fun t =>
      t.statusWord = 0x00200002 ∧ t.obuf.readBytes 0 4 = [10, 20, 30, 40] ∧ t.outLen = 4 ∧ t.blkOut = 2 := by
  decide

/-- V-D6, V-D17: an even determinant, and the size check before it. -/
theorem test_decode_gate :
    (after (step (running 0x20 [] singularInput)) fun t => t.statusWord = 0x00200302) ∧
    after (step (running 0x20 [] (withBlocks [5, 4] (holding 2 2 [2, 4, 6, 8] [1, 2, 3, 4, 5, 6, 7, 8, 9])))) fun t =>
      t.err = .invalidBlockSize := by
  decide

/-- V-D6, V-D7, L1.1: determinants -8, 0, 8, 1, 1 and 3. -/
theorem test_eliminates :
    eliminates 2 [[2, 4], [6, 8]] = false ∧ eliminates 2 [[1, 1], [1, 1]] = false ∧
    eliminates 2 [[3, 1], [1, 3]] = false ∧ eliminates 2 [[1, 2], [3, 7]] = true ∧
    eliminates 2 [[2, 1], [1, 1]] = true ∧
    eliminates 4 [[1, 2, 3, 4], [0, 1, 5, 6], [0, 0, 1, 7], [0, 0, 0, 3]] = true := by decide

/-- V-D2, V-D3: candidates of altered blocks. -/
theorem test_candidate :
    candidate 2 [31, 40] [150, 84] [[1, 2], [3, 7]] = [30, 42] ∧
    candidate 2 [10, 20] [70, 161] [[1, 2], [3, 7]] = [10, 21] ∧
    candidate 4 [50, 60, 71, 80] [50, 160, 8, 10] [[1, 2, 3, 4], [0, 1, 5, 6], [0, 0, 1, 7], [0, 0, 0, 3]] =
      [50, 60, 70, 75] := by decide

/-- V-W2: a reserved bit makes the word illegal, though its OPC is ENCODE's. -/
theorem test_illegal_word :
    after (step (running 0x110 [] encodeInput)) fun t => t.statusWord = 0x00100802 ∧ t.obuf = encodeInput.obuf := by
  decide

/-! ## Registers and the bus -/

/-- V-R1 and V-R4, V-R3, V-R10. -/
theorem test_read_constants :
    (State.reset.hostAccess (.read 0x000 4)).response = some ⟨false, 0x53454301⟩ ∧
    (State.reset.hostAccess (.read 0x100 4)).response = some ⟨false, 0⟩ ∧
    (State.reset.hostAccess (.read 0x03C 4)).response = some ⟨false, 0x04000000⟩ ∧
    (State.reset.hostAccess (.read 0x048 4)).response = some ⟨false, 1⟩ := by decide

/-- V-R5, V-R6. -/
theorem test_interrupt_registers :
    (State.reset.hostAccess (.write 0x010 4 0xFFFFFFFF)).intEnableWord = 0x7 ∧
    ({ State.reset with intStatus := 7 }.hostAccess (.write 0x00C 4 0x2)).intStatusWord = 0x5 := by decide

/-- V-R8. -/
theorem test_parameter_lock :
    let t := encodeInput.hostAccess (.write 0x014 4 3)
    t.paramK = 2 ∧ t.wrDrop = true := by decide

/-- V-B1, V-B3: little-endian bytes, and mixed widths. -/
theorem test_ibuf_bytes :
    let t := State.reset.hostAccess (.write 0x20000000 4 0x40302010)
    t.ibuf.readBytes 0 4 = [0x10, 0x20, 0x30, 0x40] ∧
    (t.hostAccess (.read 0x20000002 1)).response = some ⟨false, 0x30⟩ ∧
    (t.hostAccess (.write 0x20000002 2 0xBEEF)).ibuf.readBytes 0 4 = [0x10, 0x20, 0xEF, 0xBE] := by decide

/-- V-B2, V-B4 to V-B8: bus errors. -/
theorem test_bus_errors :
    [Access.read 0x20000001 4, .write 0x30000000 4 7, .read 0x008 1, .read 0x40000000 4, .write 0xFFFFFFFC 4 1,
      .read 0x1000 4, .read 0x10040000 4].map (fun a => State.reset.hostAccess a) =
      List.replicate 7 { State.reset with response := some ⟨true, 0⟩ } := by decide

/-- V-H1 (a): the write comes before the completion and is dropped. -/
theorem test_busy_write :
    after (step (running 0x10 [.access (.write 0x20000000 1 0x55), .core] encodeInput)) fun t =>
      t.ibuf = encodeInput.ibuf ∧ t.wrDrop = true ∧ t.busy = true := by
  decide

/-- V-H4: reset during a DECODE. -/
theorem test_reset_midcommand :
    after (step (running 0x20 [.rst] decodeInput)) fun t =>
      t.statusWord = 0 ∧ t.failIndex = 0xFFFFFFFF ∧ t.cmdDone = false := by
  decide

/-- The placed command is the one that runs. -/
theorem test_placed_command :
    after (step (State.reset.withFetchWord 32 0x10)) fun t => t.statusWord = 0x00100500 := by
  decide

/-! ## Host programs (30 R96, R97, and the bus encodings of spec 95, P1) -/

theorem test_program_accesses :
    ([HostStmt.wr32 (Reg.offset .paramK) 2, .fillIbuf 0 [1, 2], .fillBlt [4, 5], .run .loadMatrix].flatMap
        HostStmt.acts).map HostAct.access =
      [.write 0x00000014 4 0x00000002, .write 0x20000000 1 0x01, .write 0x20000001 1 0x02,
       .write 0x10000000 4 4, .write 0x10000004 4 5, .write 0x00000004 4 0x00000002, .read 0x00000008 4] := by decide

/-- The state of the program after some events. -/
def afterEvents (s : State) (program : List HostStmt) (events : List HostEvent) (p : HostRun → Bool) : Bool :=
  match (HostRun.start s program).run events with
  | .next r => p r
  | .fault _ => false
  | .refused _ => false

/-- V-G8, R97: the wait of a GEN_MATRIX polls on while the entropy is missing, and ends once the bytes have come. -/
theorem test_wait_loops :
    afterEvents (idle 1 1 []) [.run .genMatrix] [.host, .other .core, .host, .host] (fun r => r.acts = [.poll]) = true ∧
    afterEvents (idle 1 1 []) [.run .genMatrix]
      [.host, .host, .other .core, .host, .other (.entropy 5), .host, .other .core, .host]
      (fun r => r.ended && r.block.statusWord == 0x00010002) = true := by decide

/-- R97: on an idle block a wait ends on its first read. -/
theorem test_wait_idle :
    afterEvents (idle 2 2 []) [.wait, .rd32 (Reg.offset .paramK) "k"] [.host] (fun r => r.acts.length = 1) = true ∧
    afterEvents (idle 2 2 []) [.wait, .rd32 (Reg.offset .paramK) "k"] [.host, .host]
      (fun r => r.ended && r.names == [("k", 2)]) = true := by decide

/-- R97: a check compares the value that its read returns, which is 0 at an unmapped offset (20 R63). -/
theorem test_check :
    afterEvents (idle 2 2 []) [.check (Reg.offset .paramK) 2] [.host] (fun r => r.checked) = true ∧
    afterEvents (idle 2 2 []) [.check (Reg.offset .paramK) 3] [.host] (fun r => !r.checked) = true ∧
    afterEvents (idle 2 2 []) [.check 0x40000000 0] [.host] (fun r => r.checked) = true := by decide

/-! ## Witnesses: for every statement with hypotheses a concrete state that meets them, clause by clause -/

/-- The reference parameters obey 00 R6. -/
theorem test_ref_wellFormed : Config.ref.WellFormed := by constructor <;> decide

/-- The matrix of V-D1 has the inverse the vector gives. -/
theorem test_matrix_invertible : Invertible256 2 [[1, 2], [3, 7]] :=
  ⟨fun i j => ([[7, 254], [253, 1]].getD i []).getD j 0, by decide⟩

/-- The matrix of V-D6 with determinant 8 has none. -/
theorem test_matrix_singular : ¬ Invertible256 2 [[3, 1], [1, 3]] := by
  rintro ⟨b, hb⟩
  have h0 := congrFun (congrFun hb 0) 0
  have h1 := congrFun (congrFun hb 1) 0
  simp only [Matrix.mul_apply, Fin.sum_univ_two, byteMatrix] at h0 h1
  revert h0 h1
  generalize b 0 0 = x
  generalize b 1 0 = y
  intro h0 h1
  have h0 : (3 : Byte) * x + 1 * y = 1 := h0
  have h1 : (1 : Byte) * x + 3 * y = 0 := h1
  have : (8 : Byte) * y = -1 := by
    have e : (8 : Byte) * y = 3 * (1 * x + 3 * y) - (3 * x + 1 * y) := by ring
    rw [e, h0, h1]; decide
  revert this
  generalize y = z
  clear h0 h1 hb
  revert z
  decide

theorem test_meets_IllegalWordsComplete :
    let p := fun s : State => s.busy = true ∧ s.cmdw ≠ 0x00000001 ∧ s.cmdw ≠ 0x00000002 ∧ s.cmdw ≠ 0x00000003 ∧
      s.cmdw ≠ 0x00000004 ∧ s.cmdw ≠ 0x00000010 ∧ s.cmdw ≠ 0x00000020
    p (running 0x05 [] encodeInput) ∧ p (running 0x80000020 [.core] encodeInput) ∧
    (running 0x05 [] encodeInput).inbox = [] ∧ (running 0x80000020 [.core] encodeInput).inbox = [.core] := by
  decide

theorem test_meets_StepRunsDecodedCommand :
    let s := running 0x10 [] encodeInput
    let u := running 0x20 [.core, .rst] decodeInput
    s.busy = true ∧ decodeWord s.cmdw = .ok .encode ∧ s.inbox = [] ∧
    u.busy = true ∧ decodeWord u.cmdw = .ok .decode ∧ u.inbox = [.core, .rst] := by decide

theorem test_meets_InputsServedInOrder :
    ({ State.reset with inbox := [.access (.read 0x008 4)] }).inbox = [.access (.read 0x008 4)] ∧
    ({ State.reset with inbox := [.rst, .core] }).inbox = [.rst, .core] ∧
    ({ State.reset with inbox := [.entropy 7] }).inbox = [.entropy 7] ∧
    State.reset.busy = false ∧ State.reset.inbox = [] ∧
    ({ State.reset with inbox := [.core] }).busy = false ∧ ({ State.reset with inbox := [.core] }).inbox = [.core] := by
  decide

/-- The exception clause is met by a GEN_MATRIX with no entropy (V-G8). -/
theorem test_meets_CommandsComplete :
    let s := running 0x01 [] (idle 2 2 [])
    core.run (s.inbox.length + 1) s = .next s ∧ s.busy = true ∧ s.entropy.length < s.k * s.m :=
  ⟨rfl, by decide⟩

theorem test_meets_CtrlRegister :
    (running 0x10 [] encodeInput).busy = true ∧ encodeInput.busy = false ∧ encodeInput.inbox = [] ∧
    (idle 2 2 []).entropy.length < (idle 2 2 []).k * (idle 2 2 []).m := by decide

/-- The four ways BUSY, ERR and LAST_CMD are written and the two for MVALID: an acceptance, a completion, a completion
that writes MVALID, and a reset. The pending bits and the enables have their witnesses below. -/
theorem test_meets_StatusWriters :
    (after (step { encodeInput with inbox := [.access (.write 0x004 4 0x10)] }) fun t => t.busy = true) ∧
    (after (step (running 0x10 [] encodeInput)) fun t => t.busy = false) ∧
    (after (step (running 0x04 [.core] encodeInput)) fun t => t.mvalid = false) ∧
    after (step { encodeInput with inbox := [.rst] }) fun t => t.mvalid = false := by
  decide

/-- Who moves the pending bits: a write of 1 and rst clear one; a completion, an error and a dropped write set one. -/
theorem test_meets_StatusWriters_pending :
    (after (step { encodeInput with intStatus := 7, inbox := [.access (.write 0x00C 4 2)] }) fun t => t.intStatus = 5) ∧
    (after (step { encodeInput with intStatus := 7, inbox := [.rst] }) fun t => t.intStatus = 0) ∧
    (after (step (running 0x10 [] encodeInput)) fun t => t.intStatus = 1) ∧
    (after (step (running 0x10 [] (idle 2 2 []))) fun t => t.intStatus = 3) ∧
    after (step (running 0x10 [.access (.write 0x018 4 9)] encodeInput)) fun t =>
      t.intStatus = 4 ∧ t.paramM = encodeInput.paramM := by
  decide

/-- Who writes INT_ENABLE: a write to it, also while BUSY, and rst. -/
theorem test_meets_StatusWriters_enables :
    (after (step (running 0x10 [.access (.write 0x010 4 0xF)] encodeInput)) fun t => t.intEnable = 7) ∧
    after (step { encodeInput with intEnable := 7, inbox := [.rst] }) fun t => t.intEnable = 0 := by
  decide

/-- Each event with its enable, as in V-R7. -/
theorem test_meets_InterruptOutput :
    let s := { State.reset with intStatus := 5, intEnable := 4 }
    (s.hostAccess (.read 0x00C 4)).response = some { error := false, data := 5 } ∧
    (s.hostAccess (.read 0x010 4)).response = some { error := false, data := 4 } ∧ s.irq = true := by decide

theorem test_meets_ParameterRegisters :
    State.reset.busy = false ∧ State.reset.mvalid = false ∧ encodeInput.mvalid = true ∧
    (running 0x10 [] State.reset).busy = true := by decide

theorem test_meets_LengthRegisters :
    encodeInput.busy = false ∧ (running 0x10 [] encodeInput).busy = true := by decide

theorem test_meets_ConfigurationRegisters :
    State.reset.cfg.WellFormed ∧
    (0x030 ≤ (0x030 : Word).toNat ∧ (0x030 : Word).toNat ≤ 0x048 ∧ (0x030 : Word).toNat % 4 = 0) ∧
    (0x030 ≤ (0x048 : Word).toNat ∧ (0x048 : Word).toNat ≤ 0x048 ∧ (0x048 : Word).toNat % 4 = 0) ∧
    step State.reset = .next State.reset :=
  ⟨test_ref_wellFormed, by decide, by decide, rfl⟩

theorem test_meets_ReservedOffsets :
    (0x04C ≤ (0x04C : Word).toNat ∧ (0x04C : Word).toNat ≤ 0xFFC ∧ (0x04C : Word).toNat % 4 = 0) ∧
    0x04C ≤ (0xFFC : Word).toNat ∧ (0xFFC : Word).toNat ≤ 0xFFC ∧ (0xFFC : Word).toNat % 4 = 0 := by decide

/-- The last bytes of each aperture are permitted (V-B9); the next ones, a misaligned access, a width of 3 and aperture
4 are not. -/
theorem test_meets_BusErrors :
    Permitted Config.ref 0x00000FFC 4 ∧ Permitted Config.ref 0x1003FFFC 4 ∧ Permitted Config.ref 0x23FFFFFC 4 ∧
    Permitted Config.ref 0x33FFFFFF 1 ∧ apertureNo 0x33FFFFFF = 3 ∧ apertureNo 0x23FFFFFC ≠ 3 ∧
    ¬ Permitted Config.ref 0x00001000 4 ∧ ¬ Permitted Config.ref 0x10040000 4 ∧ ¬ Permitted Config.ref 0x24000000 1 ∧
    ¬ Permitted Config.ref 0x20000001 4 ∧ ¬ Permitted Config.ref 0x20000000 3 ∧ ¬ Permitted Config.ref 0x40000000 4 := by
  simp only [permitted_iff]; decide

theorem test_meets_IbufAccesses :
    (apertureNo 0x20000000 = 2 ∧ ByteAccess State.reset.cfg.ibufBytes (localOffset 0x20000000) 4) ∧
    (apertureNo 0x23FFFFFF = 2 ∧ ByteAccess State.reset.cfg.ibufBytes (localOffset 0x23FFFFFF) 1) ∧
    State.reset.busy = false ∧ State.reset.ibuf.wf ∧ (running 0x10 [] State.reset).busy = true ∧
    coreTurn State.reset = .next State.reset := by
  unfold ByteAccess; exact ⟨by decide, by decide, by decide, by decide, by decide, rfl⟩

theorem test_meets_ObufAccesses :
    (apertureNo 0x30000002 = 3 ∧ ByteAccess State.reset.cfg.obufBytes (localOffset 0x30000002) 2) ∧
    (apertureNo 0x33FFFFFF = 3 ∧ ByteAccess State.reset.cfg.obufBytes (localOffset 0x33FFFFFF) 1) ∧
    State.reset.busy = false ∧ (running 0x10 [] State.reset).busy = true := by
  unfold ByteAccess; decide

/-- The first and the last entry. -/
theorem test_meets_BltAccesses :
    (0 < State.reset.cfg.nMax ∧ (0x10000000 : Word).toNat = 2 ^ 28 + 4 * 0 ∧ 0 < 2 ^ 26) ∧
    (65535 < State.reset.cfg.nMax ∧ (0x1003FFFC : Word).toNat = 2 ^ 28 + 4 * 65535 ∧ 65535 < 2 ^ 26) ∧
    State.reset.busy = false ∧ State.reset.blt.wf ∧ (running 0x20 [] State.reset).busy = true := by decide

theorem test_meets_ReadsHaveNoSideEffect :
    apertureNo 0x20000000 ≠ 3 ∧ apertureNo 0x30000000 = 3 ∧ State.reset.busy = false := by decide

theorem test_meets_InputsFrozenWhileBusy :
    (running 0x10 [] encodeInput).busy = true ∧
    (Permitted encodeInput.cfg 0x1003FFFC 4 ∧ apertureNo 0x1003FFFC = 1) ∧
    (Permitted encodeInput.cfg 0x20000000 1 ∧ apertureNo 0x20000000 = 2) := by
  simp only [permitted_iff]; decide

theorem test_meets_GenMatrixInstallsDraw :
    let s := { idle 2 2 [] with entropy := [1, 2, 3, 7] }
    s.mvalid = false ∧ ValidKM s.cfg s.k s.m ∧ s.k * s.m ≤ s.entropy.length ∧ s.mram.wf := by decide

/-- `k` below and above its range, `k*m` above MRAM. -/
theorem test_meets_GenMatrixErrors :
    encodeInput.mvalid = true ∧ (idle 0 2 []).mvalid = false ∧
    ¬ ValidKM Config.ref (idle 0 2 []).k (idle 0 2 []).m ∧ ¬ ValidKM Config.ref (idle 1048577 1 []).k 1 ∧
    ¬ ValidKM Config.ref 1024 (idle 1024 2049 []).m := by decide

/-- One byte too few. -/
theorem test_meets_GenMatrixWaitsForEntropy :
    let s := { idle 2 2 [] with entropy := [1, 2, 3] }
    s.mvalid = false ∧ ValidKM s.cfg s.k s.m ∧ s.entropy.length < s.k * s.m := by decide

theorem test_meets_LoadMatrixInstallsInput :
    let s := idle 2 2 [1, 2, 3, 7]
    s.mvalid = false ∧ ValidKM s.cfg s.k s.m ∧ s.len ≤ s.cfg.ibufBytes ∧ s.len = s.k * s.m ∧ s.mram.wf := by decide

theorem test_meets_LoadMatrixErrors :
    encodeInput.mvalid = true ∧ (idle 0 2 []).mvalid = false ∧ ¬ ValidKM Config.ref (idle 0 2 []).k 2 ∧
    (let s := { idle 2 2 [] with inLen := 0x04000001 };
      s.mvalid = false ∧ ValidKM s.cfg s.k s.m ∧ s.cfg.ibufBytes < s.len) ∧
    let s := idle 2 2 [1, 2, 3, 7, 9]
    s.mvalid = false ∧ ValidKM s.cfg s.k s.m ∧ s.len ≤ s.cfg.ibufBytes ∧ s.len ≠ s.k * s.m := by decide

theorem test_meets_ExportMatrixCopies :
    State.reset.mvalid = false ∧
    (let s := { encodeInput with cfg := { Config.ref with obufBytes := 3 } };
      s.mvalid = true ∧ s.cfg.obufBytes < s.k * s.m) ∧
    encodeInput.mvalid = true ∧ encodeInput.k * encodeInput.m ≤ encodeInput.cfg.obufBytes ∧
    encodeInput.cfg.WellFormed ∧ encodeInput.obuf.wf :=
  ⟨by decide, by decide, by decide, by decide, test_ref_wellFormed, by decide⟩

/-- The block that loads is another one. -/
theorem test_meets_ExportThenLoadTransfers :
    let u := idle 2 2 [1, 2, 3, 7]
    (after (exec .exportMatrix encodeInput) fun t =>
      t.err = .noError ∧ ∀ a < encodeInput.k * encodeInput.m, u.ibuf.read a = t.obuf.read a) ∧
    encodeInput.obuf.wf ∧ u.mvalid = false ∧ u.paramK = encodeInput.paramK ∧ u.paramM = encodeInput.paramM ∧
    ValidKM u.cfg u.k u.m ∧ u.len = u.k * u.m ∧ u.len ≤ u.cfg.ibufBytes ∧ u.mram.wf := by
  decide

/-- A held matrix over an ENCODE; MRAM changed by CLEAR_MATRIX, by GEN_MATRIX and by reset. -/
theorem test_meets_HeldMatrixNeverChanges :
    (encodeInput.mvalid = true ∧
      after (step (running 0x10 [] encodeInput)) fun t => t.mvalid = true) ∧
    (after (exec .clearMatrix encodeInput) fun t => t.mram ≠ encodeInput.mram) ∧
    (after (exec .genMatrix { idle 1 1 [] with entropy := [5] }) fun t => t.mram ≠ (idle 1 1 []).mram) ∧
    (after (step { encodeInput with inbox := [.rst] }) fun t => t.mram ≠ encodeInput.mram) := by
  decide

/-- Steps that change MRAM: the completions of CLEAR_MATRIX, GEN_MATRIX and LOAD_MATRIX, with both forms of the turn. -/
theorem test_meets_HeldMatrixNeverChanges_step :
    (after (step (running 0x04 [] encodeInput)) fun t => t.mram ≠ encodeInput.mram) ∧
    (after (step (running 0x01 [.core] { idle 1 1 [] with entropy := [5] })) fun t => t.mram ≠ (idle 1 1 []).mram) ∧
    after (step (running 0x02 [] (idle 1 1 [7]))) fun t => t.mram ≠ (idle 1 1 []).mram := by
  decide

theorem test_meets_ParityFormula : [10, 20].length = ([[1, 2], [3, 7]] : List (List Byte)).length ∧ 1 < 2 := by decide

theorem test_meets_EncodeWritesFrames :
    encodeInput.mvalid = true ∧ encodeInput.len ≤ encodeInput.cfg.ibufBytes ∧ encodeInput.len % encodeInput.k = 0 ∧
    encodeInput.len / encodeInput.k * (encodeInput.k + encodeInput.m) ≤ encodeInput.cfg.obufBytes ∧
    encodeInput.cfg.WellFormed ∧ encodeInput.obuf.wf :=
  ⟨by decide, by decide, by decide, by decide, test_ref_wellFormed, by decide⟩

theorem test_meets_EncodeErrors :
    State.reset.mvalid = false ∧
    (let s := { holding 1 1 [3] [] with inLen := 0x04000001 };
      s.mvalid = true ∧ s.cfg.ibufBytes < s.len) ∧
    (let s := holding 4 1 [1, 2, 3, 4] [1, 2, 3, 4, 5, 6, 7];
      s.mvalid = true ∧ s.len ≤ s.cfg.ibufBytes ∧ s.len % s.k ≠ 0) ∧
    let s := { holding 1 1 [3] [] with inLen := 0x04000000 }
    s.mvalid = true ∧ s.len ≤ s.cfg.ibufBytes ∧ s.len % s.k = 0 ∧ s.cfg.obufBytes < s.len / s.k * (s.k + s.m) := by
  decide

/-- The second state has other bytes behind the input and the matrix, other event bits and another BLT. -/
theorem test_meets_EncodeReadsOnlyItsInputs :
    let s := encodeInput
    let u := withBlocks [9] { holding 2 2 [1, 2, 3, 7, 66] [10, 20, 30, 40, 99] with inLen := 4, intStatus := 7 }
    u.cfg = s.cfg ∧ u.mvalid = s.mvalid ∧ u.paramK = s.paramK ∧ u.paramM = s.paramM ∧ u.inLen = s.inLen ∧
    (∀ a < s.k * s.m, u.mram.read a = s.mram.read a) ∧ (∀ a < s.len, u.ibuf.read a = s.ibuf.read a) ∧
    s.obuf.wf ∧ u.obuf.wf ∧ u ≠ s ∧ (after (exec .encode s) fun _ => true) ∧ after (exec .encode u) fun _ => true := by
  decide

theorem test_meets_GateDecidesInvertibility :
    ([[1, 2], [3, 7]] : List (List Byte)).length = 2 ∧ ∀ r ∈ ([[1, 2], [3, 7]] : List (List Byte)), r.length = 2 := by
  decide

theorem test_meets_InvertibleWhenDeterminantOdd :
    ([[1, 2], [3, 7]] : List (List Byte)).length = 2 ∧ (∀ r ∈ ([[1, 2], [3, 7]] : List (List Byte)), r.length = 2) ∧
    eliminates 2 [[1, 2], [3, 7]] = true := by decide

/-- The scenario of L1.1: four rows, two columns. -/
theorem test_meets_PaddedMatrixSingular :
    2 < 4 ∧ ([[1, 2], [3, 4], [5, 6], [7, 8]] : List (List Byte)).length = 4 ∧
    ∀ r ∈ ([[1, 2], [3, 4], [5, 6], [7, 8]] : List (List Byte)), r.length = 2 := by decide

theorem test_meets_CandidateEqualsDataIff :
    ([10, 20] : List Byte).length = 2 ∧ ([70, 161] : List Byte).length = 2 ∧
    ([[1, 2], [3, 7]] : List (List Byte)).length = 2 := by decide

/-- What DECODE's checks ask of V-D1's input. -/
theorem test_decodeInput_checks :
    let s := decodeInput
    s.mvalid = true ∧ s.n ≤ s.cfg.nMax ∧ s.len ≤ s.cfg.ibufBytes ∧
    (∀ i < s.n, (s.bltEntry i).toNat = s.k + s.m) ∧ s.len = s.n * (s.k + s.m) ∧ s.n * s.k ≤ s.cfg.obufBytes ∧
    s.m = s.k ∧ s.obuf.wf ∧ s.k = 2 ∧ s.matrix = [[1, 2], [3, 7]] := by decide

theorem test_meets_DecodeReturnsSegments :
    let s := decodeInput
    s.mvalid = true ∧ s.n ≤ s.cfg.nMax ∧ s.len ≤ s.cfg.ibufBytes ∧
    (∀ i < s.n, (s.bltEntry i).toNat = s.k + s.m) ∧ s.len = s.n * (s.k + s.m) ∧ s.n * s.k ≤ s.cfg.obufBytes ∧
    s.m = s.k ∧ Invertible256 s.k s.matrix ∧ s.cfg.WellFormed ∧ s.obuf.wf ∧
    ∀ i < s.n, ∀ j < s.m, (s.ibuf.read (i * (s.k + s.m) + s.k + j)).toNat =
      (∑ x ∈ Finset.range s.k,
        (s.ibuf.read (i * (s.k + s.m) + x)).toNat * (s.mram.read (x * s.m + j)).toNat) % 256 := by
  obtain ⟨h1, h2, h3, h4, h5, h6, h7, h8, h9, h10⟩ := test_decodeInput_checks
  refine ⟨h1, h2, h3, h4, h5, h6, h7, ?_, test_ref_wellFormed, h8, by decide⟩
  rw [h9, h10]
  exact test_matrix_invertible

/-- Blocks that agree, and blocks one of which was altered (V-D2). -/
theorem test_meets_DecodeVerdictByDigests :
    (let s := decodeInput;
      s.mvalid = true ∧ s.n ≤ s.cfg.nMax ∧ s.len ≤ s.cfg.ibufBytes ∧
      (∀ i < s.n, (s.bltEntry i).toNat = s.k + s.m) ∧ s.len = s.n * (s.k + s.m) ∧ s.n * s.k ≤ s.cfg.obufBytes ∧
      s.m = s.k ∧ Invertible256 s.k s.matrix ∧ s.cfg.WellFormed ∧ s.obuf.wf) ∧
    let s := tamperedInput
    s.mvalid = true ∧ s.n ≤ s.cfg.nMax ∧ s.len ≤ s.cfg.ibufBytes ∧
    (∀ i < s.n, (s.bltEntry i).toNat = s.k + s.m) ∧ s.len = s.n * (s.k + s.m) ∧ s.n * s.k ≤ s.cfg.obufBytes ∧
    s.m = s.k ∧ Invertible256 s.k s.matrix ∧ s.cfg.WellFormed ∧ s.obuf.wf ∧
    s.blockCandidate 0 ≠ s.blockData 0 := by
  obtain ⟨h1, h2, h3, h4, h5, h6, h7, h8, h9, h10⟩ := test_decodeInput_checks
  refine ⟨⟨h1, h2, h3, h4, h5, h6, h7, ?_, test_ref_wellFormed, h8⟩, by decide, by decide, by decide, by decide,
    by decide, by decide, by decide, ?_, test_ref_wellFormed, by decide, by decide⟩
  · rw [h9, h10]; exact test_matrix_invertible
  · rw [show tamperedInput.k = 2 by decide, show tamperedInput.matrix = [[1, 2], [3, 7]] by decide]
    exact test_matrix_invertible

/-- V-D16, V-D11, V-D8, V-D9, a small OBUF, V-D5 and V-D6. -/
theorem test_meets_DecodeErrors :
    State.reset.mvalid = false ∧
    (let s := { decodeInput with blkN := 65537 }; s.mvalid = true ∧ s.cfg.nMax < s.n) ∧
    (let s := withBlocks [2, 3, 2] (holding 1 1 [3] [1, 3, 2, 6, 0, 0]);
      s.mvalid = true ∧ s.n ≤ s.cfg.nMax ∧ s.len ≤ s.cfg.ibufBytes ∧ ∃ i < s.n, (s.bltEntry i).toNat ≠ s.k + s.m) ∧
    (let s := withBlocks [2, 2, 2] (holding 1 1 [3] [1, 3, 2, 6, 0]);
      s.mvalid = true ∧ s.n ≤ s.cfg.nMax ∧ s.len ≤ s.cfg.ibufBytes ∧ s.len ≠ s.n * (s.k + s.m)) ∧
    (let s := { decodeInput with cfg := { Config.ref with obufBytes := 3 } };
      (∀ i < s.n, (s.bltEntry i).toNat = s.k + s.m) ∧ s.len = s.n * (s.k + s.m) ∧ s.cfg.obufBytes < s.n * s.k) ∧
    (let s := withBlocks [5] (holding 2 3 [1, 2, 3, 4, 5, 6] [1, 2, 3, 4, 5]);
      (∀ i < s.n, (s.bltEntry i).toNat = s.k + s.m) ∧ s.len = s.n * (s.k + s.m) ∧ s.n * s.k ≤ s.cfg.obufBytes ∧
      s.m ≠ s.k) ∧
    let s := singularInput
    (∀ i < s.n, (s.bltEntry i).toNat = s.k + s.m) ∧ s.len = s.n * (s.k + s.m) ∧ s.n * s.k ≤ s.cfg.obufBytes ∧
    s.m = s.k ∧ ¬ Invertible256 s.k s.matrix := by
  refine ⟨by decide, by decide, by decide, by decide, by decide, by decide, by decide, by decide, by decide, by decide,
    ?_⟩
  rw [show singularInput.k = 2 by decide, show singularInput.matrix = [[3, 1], [1, 3]] by decide]
  exact test_matrix_singular

/-- V-D6 for the error, V-D1 for the written OBUF. -/
theorem test_meets_DecodeAllOrNothing :
    (after (exec .decode singularInput) fun t => t.err ≠ .noError) ∧
    after (exec .decode decodeInput) fun t => t.obuf ≠ decodeInput.obuf := by decide

theorem test_meets_DecodeReadsOnlyItsInputs :
    let s := decodeInput
    let u := { withBlocks [4, 4, 7] (holding 2 2 [1, 2, 3, 7, 8] [10, 20, 70, 160, 30, 40, 150, 84, 1]) with
      blkN := 2, inLen := 8, intStatus := 1 }
    u.cfg = s.cfg ∧ u.mvalid = s.mvalid ∧ u.paramK = s.paramK ∧ u.paramM = s.paramM ∧ u.inLen = s.inLen ∧
    u.blkN = s.blkN ∧ (∀ i < s.n, u.bltEntry i = s.bltEntry i) ∧
    (∀ a < s.k * s.m, u.mram.read a = s.mram.read a) ∧ (∀ a < s.len, u.ibuf.read a = s.ibuf.read a) ∧
    s.obuf.wf ∧ u.obuf.wf ∧ u ≠ s ∧ (after (exec .decode s) fun _ => true) ∧ after (exec .decode u) fun _ => true := by
  decide

theorem test_meets_DecodeOfEncodedDataReturnsIt :
    let s := encodeInput
    let d := decodeInput
    let n := s.len / s.k
    (after (exec .encode s) fun t =>
      t.err = .noError ∧ ∀ a < n * (s.k + s.m), d.ibuf.read a = t.obuf.read a) ∧
    s.m = s.k ∧ Invertible256 s.k s.matrix ∧ s.obuf.wf ∧ d.mvalid = true ∧ d.paramK = s.paramK ∧
    d.paramM = s.paramM ∧ (∀ a < s.k * s.m, d.mram.read a = s.mram.read a) ∧ d.n = n ∧
    (∀ i < n, (d.bltEntry i).toNat = s.k + s.m) ∧ d.len = n * (s.k + s.m) ∧ n ≤ d.cfg.nMax ∧
    d.len ≤ d.cfg.ibufBytes ∧ n * s.k ≤ d.cfg.obufBytes ∧ d.obuf.wf := by
  refine ⟨?_, by decide, ?_, by decide, by decide, by decide, by decide, by decide, by decide, by decide, by decide,
    by decide, by decide, by decide, by decide⟩
  · decide
  · rw [show encodeInput.k = 2 by decide, show encodeInput.matrix = [[1, 2], [3, 7]] by decide]
    exact test_matrix_invertible

/-- The parity altered (V-D2), and the data altered. -/
theorem test_meets_TamperingDetected :
    let s := decodeInput
    let u := tamperedInput
    let v := withBlocks [4, 4] (holding 2 2 [1, 2, 3, 7] [11, 20, 70, 160, 30, 40, 150, 84])
    (s.m = s.k ∧ Invertible256 s.k s.matrix ∧ s.blockParity 0 = parity s.m (s.blockData 0) s.matrix) ∧
    (u.paramK = s.paramK ∧ u.paramM = s.paramM ∧ u.matrix = s.matrix ∧ u.blockData 0 = s.blockData 0 ∧
      u.blockParity 0 ≠ s.blockParity 0 ∧ u.mvalid = true ∧ 0 < u.n ∧ u.n ≤ u.cfg.nMax ∧
      u.len ≤ u.cfg.ibufBytes ∧ (∀ b < u.n, (u.bltEntry b).toNat = u.k + u.m) ∧ u.len = u.n * (u.k + u.m) ∧
      u.n * u.k ≤ u.cfg.obufBytes) ∧
    (v.paramK = s.paramK ∧ v.paramM = s.paramM ∧ v.matrix = s.matrix ∧ v.blockParity 0 = s.blockParity 0 ∧
      v.blockData 0 ≠ s.blockData 0) := by
  refine ⟨⟨by decide, ?_, by decide⟩, by decide, by decide⟩
  obtain ⟨-, -, -, -, -, -, -, -, h9, h10⟩ := test_decodeInput_checks
  rw [h9, h10]
  exact test_matrix_invertible

/-- A completion, an error, and a GEN_MATRIX that waits. -/
theorem test_meets_CompletionStep :
    (running 0x10 [] encodeInput).busy = true ∧
    (after (coreTurn (running 0x10 [] encodeInput)) fun t => t.err = .noError) ∧
    (after (coreTurn (running 0x10 [] (idle 2 2 []))) fun t => t.err = .noMatrix) ∧
    after (coreTurn (running 0x01 [] (idle 2 2 []))) fun t => t = running 0x01 [] (idle 2 2 []) := by
  decide

/-- Each command gives a next state. -/
theorem test_meets_ErrorCodes :
    (after (exec .genMatrix (idle 2 2 [])) fun _ => true) ∧ (after (exec .loadMatrix (idle 2 2 [])) fun _ => true) ∧
    (after (exec .exportMatrix encodeInput) fun _ => true) ∧ (after (exec .clearMatrix encodeInput) fun _ => true) ∧
    (after (exec .encode encodeInput) fun _ => true) ∧ after (exec .decode decodeInput) fun _ => true := by
  decide

theorem test_meets_CommandFrames :
    encodeInput.cfg.WellFormed ∧
    after (exec .encode encodeInput) fun t => t ≠ encodeInput ∧ t.outLen.toNat ≤ 8 := by
  refine ⟨test_ref_wellFormed, ?_⟩
  decide

theorem test_meets_InternalStoresUnobservable :
    (after (exec .decode decodeInput) fun _ => true) ∧ (idle 2 2 []).mvalid = false ∧
    after (exec .genMatrix { idle 1 1 [] with entropy := [5] }) fun t => t.mvalid = true := by
  decide

/-- Steps of each kind: a host access, a Core's turn that replaces MRAM from MVALID = 0, rst, and an entropy byte. -/
theorem test_meets_InternalStoresUnobservable_step :
    (after (step { idle 1 1 [] with inbox := [.access (.read 0x20000000 1)] }) fun t => t.mvalid = false) ∧
    (after (step (running 0x01 [] { idle 1 1 [] with entropy := [5] })) fun t => t.mram.read 0 = 5) ∧
    (after (step { decodeInput with inbox := [.rst] }) fun t => t.mvalid = false) ∧
    after (step { decodeInput with inbox := [.entropy 3] }) fun t => t.entropy = [3] := by
  decide

theorem test_meets_BaseHasNoEffect : after (step (running 0x10 [] encodeInput)) fun _ => true := by
  decide

theorem test_meets_ResetRestoresEverything :
    ({ decodeInput with inbox := [.rst, .core] }).inbox = .rst :: [.core] := by decide

/-- The invariant holds while an ENCODE is in flight over a held matrix, and the step answers a next state. -/
theorem test_meets_InvariantKept :
    Inv (running 0x10 [] encodeInput) ∧ after (step (running 0x10 [] encodeInput)) fun _ => true := by
  refine ⟨?_, by decide⟩
  refine { config := test_ref_wellFormed, held := by decide, mramOk := ⟨by decide, by decide, ?_⟩,
           wramOk := ⟨by decide, by decide, ?_⟩, ibufOk := ⟨by decide, by decide, ?_⟩,
           obufOk := ⟨by decide, by decide, ?_⟩, bltOk := ⟨by decide, by decide, ?_⟩, inFlight := by decide,
           failIndex := by decide, errorLengths := by decide, outLen := by decide }
  all_goals
    intro d hd
    cases hd
    decide

end Sys2Proof.Tests
end

/-! PROOFS. The statements about the registers and the status fields (spec 10 R21 to R37, 60 R205, R206): what a command
and a step do to the status fields, and what an access to each register answers. -/

namespace Sys2Proof.Machine

/-! ## Commands: the word, and the fields every command keeps or sets -/

theorem decodeOpcode_eq_some {n : Nat} {i : Instr} (h : decodeOpcode n = some i) : n = (opcodeOf i).toNat := by
  unfold decodeOpcode at h
  split at h <;> cases h <;> rfl

/-- The only word that decodes to a command is that command's word (30 R91, R92). -/
theorem eq_encodeWord_of_decodeWord {w : Word} {i : Instr} (h : decodeWord w = .ok i) : w = encodeWord i := by
  unfold decodeWord at h
  split at h
  · cases h
  · next hrsvd =>
    split at h
    · next j hj =>
      cases h
      have hopc := decodeOpcode_eq_some hj
      have hhigh := congrArg BitVec.toNat (not_not.1 hrsvd)
      apply BitVec.eq_of_toNat_eq
      have hw := w.isLt
      have hop := (opcodeOf i).isLt
      simp only [opcField, rsvdField, BitVec.extractLsb'_toNat, Nat.shiftRight_eq_div_pow, Nat.reducePow, Nat.div_one,
        BitVec.ofNat_eq_ofNat, BitVec.toNat_ofNat, Nat.zero_mod] at hopc hhigh
      simp only [encodeWord, BitVec.toNat_setWidth]
      omega
    · cases h

/-- No command writes the parameters, the operand registers, INT_ENABLE, LAST_CMD, IBUF or BLT (60 R200). -/
theorem exec_keptByCommand {i : Instr} {s t : State} (h : exec i s = .next t) : KeptByCommand s t := by
  rcases exec_cases h with ⟨rfl, -⟩ | ⟨e, -, rfl, -⟩ | ⟨-, rfl⟩ | ⟨-, j, -, rfl⟩ | ⟨-, -, -, rfl⟩ | ⟨-, -, rfl⟩ |
    ⟨-, -, rfl⟩ | ⟨-, rfl⟩ | ⟨-, -, rfl⟩ | ⟨-, -, rfl⟩ <;> constructor <;> rfl

/-- A command waits for entropy and changes nothing, or it completes: BUSY falls and the events of its code are set
(60 R200, R211). -/
theorem exec_waits_or_completes {i : Instr} {s t : State} (h : exec i s = .next t) :
    (t = s ∧ i = .genMatrix ∧ s.entropy.length < s.k * s.m) ∨
    (t.busy = false ∧ t.intStatus = s.intStatus ||| completionBits t.err) := by
  rcases exec_cases h with h | ⟨e, -, rfl, -⟩ | ⟨-, rfl⟩ | ⟨-, j, -, rfl⟩ | ⟨-, -, -, rfl⟩ | ⟨-, -, rfl⟩ |
    ⟨-, -, rfl⟩ | ⟨-, rfl⟩ | ⟨-, -, rfl⟩ | ⟨-, -, rfl⟩
  · exact .inl h
  all_goals exact .inr ⟨rfl, rfl⟩

/-- Only the three matrix commands that install or clear a matrix write MVALID. -/
theorem exec_mvalid {i : Instr} {s t : State} (h : exec i s = .next t) :
    t.mvalid = s.mvalid ∨ i = .genMatrix ∨ i = .loadMatrix ∨ i = .clearMatrix := by
  rcases exec_cases h with ⟨rfl, -⟩ | ⟨e, -, rfl, -⟩ | ⟨-, rfl⟩ | ⟨-, j, -, rfl⟩ | ⟨-, -, -, rfl⟩ | ⟨-, -, rfl⟩ |
    ⟨-, -, rfl⟩ | ⟨hi, -⟩ | ⟨hi, -⟩ | ⟨hi, -⟩
  iterate 7 exact .inl rfl
  · exact .inr (.inr (.inr hi))
  · exact .inr (.inr (.inl hi))
  · exact .inr (.inl hi)

/-! ## The Core's turn -/

/-- What the end of a command does to the status fields (60 R200). -/
structure CommandEnded (s t : State) : Prop where
  inFlight : s.busy = true
  idle : t.busy = false
  lastCmd : t.lastCmd = s.lastCmd
  intEnable : t.intEnable = s.intEnable
  intStatus : t.intStatus = s.intStatus ||| completionBits t.err
  mvalid : t.mvalid = s.mvalid ∨ s.cmdw = 0x00000001 ∨ s.cmdw = 0x00000002 ∨ s.cmdw = 0x00000004

/-- The Core's turn: nothing to do, a GEN_MATRIX that waits for its entropy bytes, or the end of a command. -/
theorem coreTurn_waits_or_ends {s t : State} (h : coreTurn s = .next t) :
    (t = s ∧ (s.busy = false ∨ (s.cmdw = 0x00000001 ∧ s.entropy.length < s.k * s.m))) ∨ CommandEnded s t := by
  rcases coreTurn_cases h with ⟨hb, ht⟩ | ⟨hb, i, hi, he⟩ | ⟨hb, -, rfl⟩
  · exact .inl ⟨ht, .inl hb⟩
  · have hw := eq_encodeWord_of_decodeWord hi
    rcases exec_waits_or_completes he with ⟨ht, rfl, hshort⟩ | ⟨hidle, hint⟩
    · exact .inl ⟨ht, .inr ⟨hw, hshort⟩⟩
    · have hkept := exec_keptByCommand he
      refine .inr ⟨hb, hidle, hkept.lastCmd, hkept.intEnable, hint, ?_⟩
      rcases exec_mvalid he with hm | rfl | rfl | rfl
      · exact .inl hm
      · exact .inr (.inl hw)
      · exact .inr (.inr (.inl hw))
      · exact .inr (.inr (.inr hw))
  · exact .inr ⟨hb, rfl, rfl, rfl, rfl, .inl rfl⟩

/-! ## Accesses to the registers -/

/-- A read of a register answers its value and changes nothing else (20 R66). -/
theorem hostAccess_read_reg (s : State) (r : Reg) : s.hostAccess (.read r.offset 4) = s.answer false (s.readReg r) := by
  cases r <;> rfl

/-- A write to a register does what the register's rule says. -/
theorem hostAccess_write_reg (s : State) (r : Reg) (v : Word) :
    s.hostAccess (.write r.offset 4 v) = (s.writeReg v r).answer false 0 := by
  cases r <;> rfl

/-- A write locked by BUSY is stored while idle. -/
theorem State.unlessBusy_of_idle {s : State} (stored : State) (h : s.busy = false) : s.unlessBusy stored = stored := by
  simp [State.unlessBusy, h]

/-- A write locked by BUSY is dropped while a command is in flight. -/
theorem State.unlessBusy_of_busy {s : State} (stored : State) (h : s.busy = true) :
    s.unlessBusy stored = s.dropWrite := by
  simp [State.unlessBusy, h]

/-- A write locked by BUSY and MVALID is stored while neither holds. -/
theorem State.unlessHeld_of_free {s : State} (stored : State) (hb : s.busy = false) (hm : s.mvalid = false) :
    s.unlessHeld stored = stored := by
  simp [State.unlessHeld, hb, hm]

/-- A write locked by BUSY and MVALID is dropped while one of them holds. -/
theorem State.unlessHeld_of_held {s : State} (stored : State) (h : s.busy = true ∨ s.mvalid = true) :
    s.unlessHeld stored = s.dropWrite := by
  simp [State.unlessHeld, h]

/-- An aligned write in aperture 0 acts on the register at its offset, if there is one. -/
theorem hostAccess_write_regAt (s : State) {off : Word} (v : Word) (h : off.toNat ≤ 0xFFC) (ha : off.toNat % 4 = 0) :
    s.hostAccess (.write off 4 v) = (s.writeRegAt off.toNat v).answer false 0 := by
  simp only [State.hostAccess, State.hostWrite, targetOf_reg h ha]

/-- An aligned read in aperture 0 reads the register at its offset, if there is one. -/
theorem hostAccess_read_regAt (s : State) {off : Word} (h : off.toNat ≤ 0xFFC) (ha : off.toNat % 4 = 0) :
    s.hostAccess (.read off 4) = s.answer false (s.readRegAt off.toNat) := by
  simp only [State.hostAccess, State.hostRead, targetOf_reg h ha]

/-- No register stands above CFG_DIGEST (10 R35). -/
theorem regAt_eq_none {a : Nat} (h : 0x04C ≤ a) : regAt a = none := by
  cases hr : regAt a with
  | none => rfl
  | some r =>
    have ha := regAt_eq_some hr
    have hr : r.offset.toNat ≤ 0x048 := by cases r <;> decide
    omega

/-! ## The status fields over a step -/

/-- The status fields of 10 R24 to R26 are as before. -/
structure StatusKept (s t : State) : Prop where
  busy : t.busy = s.busy
  err : t.err = s.err
  lastCmd : t.lastCmd = s.lastCmd
  mvalid : t.mvalid = s.mvalid
  intStatus : t.intStatus = s.intStatus
  intEnable : t.intEnable = s.intEnable

/-- The Core has its turn: it is the next input, or no input is left (log entry 20). -/
def CoreIsNext (s : State) : Prop := s.inbox = [] ∨ s.inbox.head? = some .core

/-- Everything a step can do to the status fields. -/
inductive StatusChange (s t : State) : Prop where
  | kept (h : StatusKept s t)
  | ended (turn : CoreIsNext s) (h : CommandEnded s t)
  | accepted (v : Word) (rest : List Input) (idle : s.busy = false)
      (next : s.inbox = .access (.write 0x004 4 v) :: rest)
      (h : StatusKept (s.accept v) t)
  | cleared (v : Word) (next : s.inbox.head? = some (.access (.write 0x00C 4 v)))
      (h : StatusKept (s.clearEvents v) t)
  | enabled (v : Word) (next : s.inbox.head? = some (.access (.write 0x010 4 v)))
      (h : StatusKept (s.enableEvents v) t)
  | dropped (off : Word) (width : Nat) (v : Word) (rest : List Input) (locked : s.busy = true ∨ s.mvalid = true)
      (next : s.inbox = .access (.write off width v) :: rest)
      (h : t = { s with inbox := rest, intStatus := s.intStatus ||| 4, response := t.response })
  | reset (next : s.inbox.head? = some .rst) (h : StatusKept State.reset t)

/-- The Core's turn on a state that differs from `s` at most in its inbox. -/
theorem statusChange_of_coreTurn {s t : State} (inbox : List Input) (turn : CoreIsNext s)
    (h : coreTurn { s with inbox := inbox } = .next t) : StatusChange s t := by
  rcases coreTurn_waits_or_ends h with ⟨rfl, -⟩ | ⟨hbusy, hidle, hlast, hen, hint, hmv⟩
  · exact .kept (by constructor <;> rfl)
  · exact .ended turn ⟨hbusy, hidle, hlast, hen, hint, hmv⟩

/-- A write to a register in a step. -/
theorem statusChange_of_writeReg {s : State} {r : Reg} {v : Word} {rest : List Input} (x : Bool) (d : Word)
    (hin : s.inbox = .access (.write r.offset 4 v) :: rest) :
    StatusChange s ((({ s with inbox := rest } : State).writeReg v r).answer x d) := by
  have hhead : s.inbox.head? = some (.access (.write r.offset 4 v)) := by rw [hin]; rfl
  rcases writeReg_cases { s with inbox := rest } v r with h | ⟨hl, h⟩ | ⟨rfl, hb, h⟩ | ⟨rfl, h⟩ | ⟨rfl, h⟩ |
    ⟨-, -, h⟩ | ⟨-, -, h⟩ | ⟨-, h⟩ | ⟨-, h⟩ <;> rw [h]
  · exact .kept (by constructor <;> rfl)
  · exact .dropped _ _ _ _ hl hin rfl
  · exact .accepted v rest hb hin (by constructor <;> rfl)
  · exact .cleared v hhead (by constructor <;> rfl)
  · exact .enabled v hhead (by constructor <;> rfl)
  all_goals exact .kept (by constructor <;> rfl)

/-- A host access in a step. -/
theorem statusChange_of_hostAccess {s : State} {a : Access} {rest : List Input} (hin : s.inbox = .access a :: rest) :
    StatusChange s ({ s with inbox := rest }.hostAccess a) := by
  obtain ⟨u, x, d, he, hu⟩ := hostAccess_cases { s with inbox := rest } a
  rw [he]
  rcases hu with rfl | ⟨-, rfl⟩ | ⟨hb, ⟨off, w, v, rfl⟩, rfl⟩ | ⟨v, r, off, rfl, ht, hr, rfl⟩ |
    ⟨-, off, w, v, -, rfl⟩ | ⟨-, off, w, v, -, rfl⟩
  · exact .kept (by constructor <;> rfl)
  · exact .kept (by constructor <;> rfl)
  · exact .dropped off w v rest (.inl hb) hin rfl
  · obtain rfl := offset_of_targetOf ht hr
    exact statusChange_of_writeReg x d hin
  all_goals exact .kept (by constructor <;> rfl)

/-- Every step is one of these changes. -/
theorem statusChange_of_step {s t : State} (h : step s = .next t) : StatusChange s t := by
  rcases step_cases h with ⟨hin, hc⟩ | ⟨rest, hin, hc⟩ | ⟨a, rest, hin, rfl⟩ | ⟨rest, hin, rfl⟩ | ⟨b, rest, hin, rfl⟩
  · exact statusChange_of_coreTurn s.inbox (.inl hin) hc
  · exact statusChange_of_coreTurn rest (.inr (by rw [hin]; rfl)) hc
  · exact statusChange_of_hostAccess hin
  · exact .reset (by rw [hin]; rfl) (by constructor <;> rfl)
  · exact .kept (by constructor <;> rfl)

/-! ## Single event bits -/

/-- Bit `b` of the low three bits of a value. -/
theorem eventBits_getLsbD (v : Word) {b : Nat} (hb : b < 3) : (eventBits v).getLsbD b = v.getLsbD b := by
  simp [eventBits, hb]

/-- A write to INT_STATUS clears the bits written 1 (10 R25). -/
theorem clearEvents_getLsbD (s : State) (v : Word) {b : Nat} (hb : b < 3) :
    (s.clearEvents v).intStatus.getLsbD b = (s.intStatus.getLsbD b && !v.getLsbD b) := by
  rw [State.clearEvents_intStatus, BitVec.getLsbD_and, BitVec.getLsbD_not, eventBits_getLsbD v hb]
  simp [hb]

/-- A completion sets CMD_DONE, and CMD_ERR when its code is an error (60 R200). -/
theorem completionBits_getLsbD {e : ErrCode} {b : Nat} (h : (completionBits e).getLsbD b = true) :
    b = 0 ∨ (b = 1 ∧ e ≠ .noError) := by
  have hb : b < 3 := BitVec.lt_of_getLsbD h
  by_cases he : e = .noError
  · simp only [completionBits, he, if_true] at h
    interval_cases b <;> simp_all [cmdDoneBit]
  · simp only [completionBits, he, if_false] at h
    interval_cases b <;> simp_all [cmdDoneBit, cmdErrBit]

/-- A dropped write sets WR_DROP alone (60 R205). -/
theorem wrDropBit_getLsbD {b : Nat} (h : wrDropBit.getLsbD b = true) : b = 2 := by
  have hb : b < 3 := BitVec.lt_of_getLsbD h
  interval_cases b <;> simp_all [wrDropBit]

/-! ## Who writes each field (60 R205, R206) -/

namespace StatusChange

variable {s t : State}

/-- BUSY, ERR and LAST_CMD: an acceptance, an end of a command, or reset. -/
theorem busy_err_lastCmd (c : StatusChange s t) :
    (t.busy = s.busy ∧ t.err = s.err ∧ t.lastCmd = s.lastCmd) ∨
    (s.busy = false ∧ ∃ v rest, s.inbox = .access (.write 0x004 4 v) :: rest ∧
      t.busy = true ∧ t.err = .noError ∧ t.lastCmd = v.extractLsb' 0 8) ∨
    (s.busy = true ∧ CoreIsNext s ∧ t.busy = false ∧ t.lastCmd = s.lastCmd) ∨
    (s.inbox.head? = some .rst ∧ t.busy = false ∧ t.err = .noError ∧ t.lastCmd = 0) := by
  cases c with
  | kept h => exact .inl ⟨h.busy, h.err, h.lastCmd⟩
  | ended turn h => exact .inr (.inr (.inl ⟨h.inFlight, turn, h.idle, h.lastCmd⟩))
  | accepted v rest idle next h => exact .inr (.inl ⟨idle, v, rest, next, h.busy, h.err, h.lastCmd⟩)
  | cleared v next h => exact .inl ⟨h.busy, h.err, h.lastCmd⟩
  | enabled v next h => exact .inl ⟨h.busy, h.err, h.lastCmd⟩
  | dropped off width v rest locked next h => rw [h]; exact .inl ⟨rfl, rfl, rfl⟩
  | reset next h => exact .inr (.inr (.inr ⟨next, h.busy, h.err, h.lastCmd⟩))

/-- MVALID: the end of a matrix command, or reset. -/
theorem mvalid (c : StatusChange s t) :
    t.mvalid = s.mvalid ∨
    (s.busy = true ∧ t.busy = false ∧ CoreIsNext s ∧
      (s.cmdw = 0x00000001 ∨ s.cmdw = 0x00000002 ∨ s.cmdw = 0x00000004)) ∨
    (s.inbox.head? = some .rst ∧ t.mvalid = false) := by
  cases c with
  | kept h => exact .inl h.mvalid
  | ended turn h => exact h.mvalid.imp_right fun hw => .inl ⟨h.inFlight, h.idle, turn, hw⟩
  | accepted v rest idle next h => exact .inl h.mvalid
  | cleared v next h => exact .inl h.mvalid
  | enabled v next h => exact .inl h.mvalid
  | dropped off width v rest locked next h => rw [h]; exact .inl rfl
  | reset next h => exact .inr (.inr ⟨next, h.mvalid⟩)

/-- A pending bit falls: the Host wrote 1 to it, or reset. -/
theorem event_cleared (c : StatusChange s t) {b : Nat} (hb : b < 3) (hs : s.intStatus.getLsbD b = true)
    (ht : t.intStatus.getLsbD b = false) :
    (∃ v, s.inbox.head? = some (.access (.write 0x00C 4 v)) ∧ v.getLsbD b = true) ∨
      s.inbox.head? = some .rst := by
  cases c with
  | kept h => simp [h.intStatus, hs] at ht
  | ended turn h => simp [h.intStatus, hs] at ht
  | accepted v rest idle next h => simp [h.intStatus, hs] at ht
  | cleared v next h =>
    refine .inl ⟨v, next, ?_⟩
    rw [h.intStatus, clearEvents_getLsbD s v hb, hs] at ht
    simpa using ht
  | enabled v next h => simp [h.intStatus, hs] at ht
  | dropped off width v rest locked next h => rw [h] at ht; simp [hs] at ht
  | reset next h => exact .inr next

/-- A pending bit rises: CMD_DONE and CMD_ERR by the end of a command, WR_DROP by a dropped write. -/
theorem event_set (c : StatusChange s t) {b : Nat} (hs : s.intStatus.getLsbD b = false)
    (ht : t.intStatus.getLsbD b = true) :
    (b = 0 ∧ s.busy = true ∧ t.busy = false ∧ CoreIsNext s) ∨
    (b = 1 ∧ s.busy = true ∧ t.busy = false ∧ t.err ≠ .noError ∧ CoreIsNext s) ∨
    (b = 2 ∧ (s.busy = true ∨ s.mvalid = true) ∧ ∃ off width v rest,
      s.inbox = .access (.write off width v) :: rest ∧
      t = { s with inbox := rest, intStatus := s.intStatus ||| 4, response := t.response }) := by
  cases c with
  | kept h => simp [h.intStatus, hs] at ht
  | ended turn h =>
    have hbit : (completionBits t.err).getLsbD b = true := by simpa [h.intStatus, hs] using ht
    rcases completionBits_getLsbD hbit with rfl | ⟨rfl, he⟩
    · exact .inl ⟨rfl, h.inFlight, h.idle, turn⟩
    · exact .inr (.inl ⟨rfl, h.inFlight, h.idle, he, turn⟩)
  | accepted v rest idle next h => simp [h.intStatus, hs] at ht
  | cleared v next h => simp [h.intStatus, hs] at ht
  | enabled v next h => simp [h.intStatus, hs] at ht
  | dropped off width v rest locked next h =>
    have hbit : wrDropBit.getLsbD b = true := by
      rw [h, BitVec.getLsbD_or, hs, Bool.false_or] at ht
      exact ht
    exact .inr (.inr ⟨wrDropBit_getLsbD hbit, locked, off, width, v, rest, next, h⟩)
  | reset next h => simp [h.intStatus, State.reset] at ht

/-- INT_ENABLE: a host write to it, or reset. -/
theorem intEnable (c : StatusChange s t) :
    t.intEnable = s.intEnable ∨
    (∃ v, s.inbox.head? = some (.access (.write 0x010 4 v)) ∧ t.intEnable = v.extractLsb' 0 3) ∨
    (s.inbox.head? = some .rst ∧ t.intEnable = 0) := by
  cases c with
  | kept h => exact .inl h.intEnable
  | ended turn h => exact .inl h.intEnable
  | accepted v rest idle next h => exact .inl h.intEnable
  | cleared v next h => exact .inl h.intEnable
  | enabled v next h => exact .inr (.inl ⟨v, next, h.intEnable⟩)
  | dropped off width v rest locked next h => rw [h]; exact .inl rfl
  | reset next h => exact .inr (.inr ⟨next, h.intEnable⟩)

end StatusChange

/-- Settles O11: every step is one of the changes of `StatusChange`, and each names its writer. -/
theorem statusWriters : Obligations.StatusWriters := by
  unfold Obligations.StatusWriters
  intro s t h
  have c := statusChange_of_step h
  exact ⟨c.busy_err_lastCmd, c.mvalid, fun _ hb hs ht => c.event_cleared hb hs ht,
    fun _ _ hs ht => c.event_set hs ht, c.intEnable⟩

/-! ## The registers, one by one -/

/-- Each bit of STATUS is a bit of one of its four fields (10 R24). -/
theorem State.statusWord_getLsbD (s : State) (i : Nat) :
    s.statusWord.getLsbD i =
      ((decide (16 ≤ i) && s.lastCmd.getLsbD (i - 16)) || (decide (8 ≤ i) && s.err.code.getLsbD (i - 8)) ||
        (decide (i = 1) && s.mvalid) || (decide (i = 0) && s.busy)) := by
  simp only [State.statusWord, BitVec.getLsbD_or, BitVec.getLsbD_shiftLeft, BitVec.getLsbD_setWidth,
    BitVec.getLsbD_ofBool]
  grind

/-- A field in the low bits of a register's word reads back, with zeros above (10 R25, R26, R34). -/
theorem lowField_fields {n : Nat} (b : BitVec n) (hn : n ≤ 32) :
    (b.setWidth 32).extractLsb' 0 n = b ∧ (b.setWidth 32).extractLsb' n (32 - n) = 0 := by
  constructor
  · ext i hi
    rw [BitVec.getElem_extractLsb', BitVec.getLsbD_setWidth]
    grind
  · ext i hi
    simp

/-- Settles O8: ID is a constant and has no writer. -/
theorem idRegister : Obligations.IdRegister := by
  unfold Obligations.IdRegister
  intro s v
  exact ⟨hostAccess_read_reg s .id, hostAccess_write_reg s .id v, by decide, by decide⟩

/-- Settles O9: CTRL's rule by the two cases of BUSY, and the Core's turn after an acceptance. -/
theorem ctrlRegister : Obligations.CtrlRegister := by
  unfold Obligations.CtrlRegister
  intro s v
  have hwrite : s.hostAccess (.write 0x004 4 v) = (s.unlessBusy (s.accept v)).answer false 0 :=
    hostAccess_write_reg s .ctrl v
  refine ⟨hostAccess_read_reg s .ctrl, fun hb => ?_, fun hb => ?_, fun hb hin => ?_⟩
  · rw [hwrite, State.unlessBusy_of_busy _ hb]; rfl
  · rw [hwrite, State.unlessBusy_of_idle _ hb]; rfl
  · rw [hwrite, State.unlessBusy_of_idle _ hb, step_of_empty (by simpa using hin)]
    obtain ⟨t, ht⟩ := coreTurn_next ((s.accept v).answer false 0)
    refine ⟨t, ht, ?_⟩
    rcases coreTurn_waits_or_ends ht with ⟨hsame, hidle | ⟨hw, hshort⟩⟩ | hended
    · simp at hidle
    · exact .inr ⟨hw, hshort, hsame⟩
    · exact .inl hended.idle

/-- Settles O10: each field of the status word, bit by bit. -/
theorem statusFields : Obligations.StatusFields := by
  unfold Obligations.StatusFields
  intro s v
  refine ⟨⟨s.statusWord, hostAccess_read_reg s .status, ?_, ?_, ?_, ?_, ?_, ?_⟩, hostAccess_write_reg s .status v⟩
  · rw [State.statusWord_getLsbD]; simp
  · rw [State.statusWord_getLsbD]; simp
  all_goals
    ext i hi
    rw [BitVec.getElem_extractLsb', State.statusWord_getLsbD]
    grind

/-- Settles O12: INT_STATUS reads its bits and a write clears the bits written 1. -/
theorem interruptStatusRegister : Obligations.InterruptStatusRegister := by
  unfold Obligations.InterruptStatusRegister
  intro s v
  exact ⟨⟨s.intStatusWord, hostAccess_read_reg s .intStatus, lowField_fields s.intStatus (by decide)⟩,
    _, hostAccess_write_reg s .intStatus v, rfl, fun b hb => clearEvents_getLsbD s v hb⟩

/-- Settles O13: INT_ENABLE reads its bits and takes the low three bits of a write. -/
theorem interruptEnableRegister : Obligations.InterruptEnableRegister := by
  unfold Obligations.InterruptEnableRegister
  exact ⟨rfl, fun s v => ⟨⟨s.intEnableWord, hostAccess_read_reg s .intEnable, lowField_fields s.intEnable (by decide)⟩,
    hostAccess_write_reg s .intEnable v⟩⟩

/-- Settles O15: PARAM_K and PARAM_M by the two cases of their lock. -/
theorem parameterRegisters : Obligations.ParameterRegisters := by
  unfold Obligations.ParameterRegisters
  intro s v
  have hk : s.hostAccess (.write 0x014 4 v) = (s.unlessHeld { s with paramK := v }).answer false 0 :=
    hostAccess_write_reg s .paramK v
  have hm : s.hostAccess (.write 0x018 4 v) = (s.unlessHeld { s with paramM := v }).answer false 0 :=
    hostAccess_write_reg s .paramM v
  refine ⟨hostAccess_read_reg s .paramK, hostAccess_read_reg s .paramM, fun hb hv => ?_, fun hheld => ?_⟩
  · rw [hk, hm, State.unlessHeld_of_free _ hb hv, State.unlessHeld_of_free _ hb hv]
    exact ⟨rfl, rfl⟩
  · rw [hk, hm, State.unlessHeld_of_held _ hheld, State.unlessHeld_of_held _ hheld]
    exact ⟨rfl, rfl⟩

/-- Settles O16: IN_LEN and BLK_N by the two cases of BUSY. -/
theorem lengthRegisters : Obligations.LengthRegisters := by
  unfold Obligations.LengthRegisters
  intro s v
  have hlen : s.hostAccess (.write 0x01C 4 v) = (s.unlessBusy { s with inLen := v }).answer false 0 :=
    hostAccess_write_reg s .inLen v
  have hn : s.hostAccess (.write 0x020 4 v) = (s.unlessBusy { s with blkN := v }).answer false 0 :=
    hostAccess_write_reg s .blkN v
  refine ⟨hostAccess_read_reg s .inLen, hostAccess_read_reg s .blkN, fun hb => ?_, fun hb => ?_⟩
  · rw [hlen, hn, State.unlessBusy_of_idle _ hb, State.unlessBusy_of_idle _ hb]
    exact ⟨rfl, rfl⟩
  · rw [hlen, hn, State.unlessBusy_of_busy _ hb, State.unlessBusy_of_busy _ hb]
    exact ⟨rfl, rfl⟩

/-- Settles O17: the result registers read their fields and have no host writer. -/
theorem resultRegisters : Obligations.ResultRegisters := by
  unfold Obligations.ResultRegisters
  intro s v
  exact ⟨hostAccess_read_reg s .outLen, hostAccess_read_reg s .blkOut, hostAccess_read_reg s .failIndex,
    hostAccess_write_reg s .outLen v, hostAccess_write_reg s .blkOut v, hostAccess_write_reg s .failIndex v⟩

/-- Settles O19: no register stands at a reserved offset. -/
theorem reservedOffsets : Obligations.ReservedOffsets := by
  unfold Obligations.ReservedOffsets
  intro s off v hlow hhigh halign
  rw [hostAccess_read_regAt s hhigh halign, hostAccess_write_regAt s v hhigh halign]
  simp only [State.readRegAt, State.writeRegAt, regAt_eq_none hlow]
  exact ⟨rfl, rfl⟩

/-! ## The parameters (10 R34) -/

/-- The Core's turn keeps the parameters. -/
theorem coreTurn_cfg {s t : State} (h : coreTurn s = .next t) : t.cfg = s.cfg := by
  rcases coreTurn_cases h with ⟨-, rfl⟩ | ⟨-, i, -, he⟩ | ⟨-, -, rfl⟩
  · rfl
  · exact (exec_keptByCommand he).cfg
  · rfl

/-- No step changes the parameters. -/
theorem step_cfg {s t : State} (h : step s = .next t) : t.cfg = s.cfg := by
  rcases step_cases h with ⟨-, hc⟩ | ⟨rest, -, hc⟩ | ⟨a, rest, -, rfl⟩ | ⟨rest, -, rfl⟩ | ⟨b, rest, -, rfl⟩
  · exact coreTurn_cfg hc
  · exact (coreTurn_cfg hc).trans rfl
  · exact (hostAccess_untouched _ a).cfg
  · rfl
  · rfl

/-- A write to a parameter's register is ignored. -/
theorem writeRegAt_cfg (s : State) (v : Word) {a : Nat} (hlow : 0x030 ≤ a) : s.writeRegAt a v = s := by
  unfold State.writeRegAt
  split
  · next r hr =>
    have ha := regAt_eq_some hr
    cases r
    case cfgKMax | cfgMMax | cfgMramBytes | cfgIbufBytes | cfgObufBytes | cfgNMax | cfgDigest => rfl
    all_goals exact absurd hlow (by rw [ha]; decide)
  · rfl

/-- Settles O18: legal parameters fit a register word, and no write or step reaches them. -/
theorem configurationRegisters : Obligations.ConfigurationRegisters := by
  unfold Obligations.ConfigurationRegisters
  refine ⟨fun s hw => ?_, fun s off v hlow hhigh halign => ?_, fun s t h => step_cfg h⟩
  · obtain ⟨-, hk, -, hm, -, hr, -, hi, -, ho, -, hn⟩ := hw
    have fits {n : Nat} (h : n < 2 ^ 32) : (BitVec.ofNat 32 n).toNat = n := by
      rw [BitVec.toNat_ofNat, Nat.mod_eq_of_lt h]
    exact ⟨_, _, _, _, _, _, _,
      hostAccess_read_reg s .cfgKMax, fits (by omega), hostAccess_read_reg s .cfgMMax, fits (by omega),
      hostAccess_read_reg s .cfgMramBytes, fits (by omega), hostAccess_read_reg s .cfgIbufBytes, fits (by omega),
      hostAccess_read_reg s .cfgObufBytes, fits (by omega), hostAccess_read_reg s .cfgNMax, fits (by omega),
      hostAccess_read_reg s .cfgDigest, lowField_fields s.cfg.digestId (by decide)⟩
  · rw [hostAccess_write_regAt s v (by omega) halign, writeRegAt_cfg s v hlow]
    rfl

/-! ## The stores that nothing shows (10 R36, R37) -/

/-- The state with other contents of MRAM and WRAM. -/
def State.withInternal (s : State) (r w : Memory) : State := { s with mram := r, wram := w }

/-- Where the outcome `o` from `s` is a next state, the outcome `o'` from `s.withInternal r w` is that state but for
its MRAM and WRAM, and each of the two stores is the same after if it was the same before. -/
def SameOutside (s : State) (r w : Memory) (o o' : Host.Outcome State Fault Refusal) : Prop :=
  ∀ t, o = .next t → ∃ r' w', (r = s.mram → r' = t.mram) ∧ (w = s.wram → w' = t.wram) ∧
    o' = .next (t.withInternal r' w')

/-- Without a matrix, the commands that read it end in NoMatrix. -/
theorem exec_noMatrix {s : State} {i : Instr} (hm : s.mvalid = false)
    (hi : i = .exportMatrix ∨ i = .encode ∨ i = .decode) : exec i s = .next (s.raise .noMatrix) := by
  rcases hi with rfl | rfl | rfl <;> exact if_pos hm

section

variable {s : State} {r w : Memory}

/-- One next state on both sides, with the contents `r'` and `w'` in the second. -/
theorem SameOutside.next {t : State} (r' w' : Memory) (hr : r = s.mram → r' = t.mram)
    (hw : w = s.wram → w' = t.wram) :
    SameOutside s r w (.next t) (.next (t.withInternal r' w')) := by
  rintro _ ⟨⟩
  exact ⟨r', w', hr, hw, rfl⟩

/-- A next state that writes neither store. -/
theorem SameOutside.kept {t : State} (hr : t.mram = s.mram) (hw : t.wram = s.wram) :
    SameOutside s r w (.next t) (.next (t.withInternal r w)) :=
  .next r w (·.trans hr.symm) (·.trans hw.symm)

/-- Two choices by one condition. -/
theorem SameOutside.ite {p : Prop} [Decidable p] {a a' b b' : Host.Outcome State Fault Refusal}
    (ha : SameOutside s r w a a') (hb : SameOutside s r w b b') :
    SameOutside s r w (if p then a else b) (if p then a' else b') := by
  split
  · exact ha
  · exact hb

/-- A command reads WRAM never, and MRAM only while a matrix is held. -/
theorem exec_withInternal (i : Instr) (h : r = s.mram ∨ s.mvalid = false) :
    SameOutside s r w (exec i s) (exec i (s.withInternal r w)) := by
  have raised (e : ErrCode) : SameOutside s r w (.next (s.raise e)) (.next ((s.withInternal r w).raise e)) :=
    .kept rfl rfl
  have unheld (hm : s.mvalid = false) (hi : i = .exportMatrix ∨ i = .encode ∨ i = .decode) :
      SameOutside s r w (exec i s) (exec i (s.withInternal r w)) := by
    rw [exec_noMatrix hm hi, exec_noMatrix (s := s.withInternal r w) hm hi]
    exact raised _
  cases i with
  | genMatrix =>
    exact .ite (raised _) <| .ite (raised _) <| .ite (.kept rfl rfl) <|
      .next (r.writeBytes 0 _) w (fun hr => by rw [hr]; rfl) id
  | loadMatrix =>
    exact .ite (raised _) <| .ite (raised _) <| .ite (raised _) <| .ite (raised _) <|
      .next (r.writeBytes 0 _) w (fun hr => by rw [hr]; rfl) id
  | clearMatrix => exact .next (Memory.filled 0) w (fun _ => rfl) id
  | exportMatrix =>
    rcases h with rfl | hm
    · exact .ite (raised _) <| .ite (raised _) <| .kept rfl rfl
    · exact unheld hm (.inl rfl)
  | encode =>
    rcases h with rfl | hm
    · exact .ite (raised _) <| .ite (raised _) <| .ite (raised _) <| .ite (raised _) <| .kept rfl rfl
    · exact unheld hm (.inr (.inl rfl))
  | decode =>
    rcases h with rfl | hm
    · exact .ite (raised _) <| .ite (raised _) <| .ite (raised _) <| .ite (raised _) <| .ite (raised _) <|
        .ite (raised _) <| .next _ _ (fun _ => rfl) (fun _ => rfl)
    · exact unheld hm (.inr (.inr rfl))

/-- The Core's turn shows the two stores no more than its command does. -/
theorem coreTurn_withInternal (h : r = s.mram ∨ s.mvalid = false) :
    SameOutside s r w (coreTurn s) (coreTurn (s.withInternal r w)) := by
  cases hb : s.busy with
  | false =>
    rw [coreTurn_of_idle hb, coreTurn_of_idle (s := s.withInternal r w) hb]
    exact .kept rfl rfl
  | true =>
    cases hd : decodeWord s.cmdw with
    | ok i =>
      rw [coreTurn_of_ok hb hd, coreTurn_of_ok (s := s.withInternal r w) hb hd]
      exact exec_withInternal i h
    | error e =>
      rw [coreTurn_of_error hb hd, coreTurn_of_error (s := s.withInternal r w) hb hd]
      exact .kept rfl rfl

/-! ### Host accesses -/

/-- A choice made by one condition in both states, a lock above all. -/
theorem ite_withInternal {a b a' b' : State} {r w : Memory} {p : Prop} [Decidable p] (ha : a' = a.withInternal r w)
    (hb : b' = b.withInternal r w) : (if p then a' else b') = (if p then a else b).withInternal r w := by
  rw [ha, hb, apply_ite (State.withInternal · r w)]

/-- No register shows the two stores. -/
theorem readRegAt_withInternal (s : State) (r w : Memory) (a : Nat) :
    (s.withInternal r w).readRegAt a = s.readRegAt a := by
  unfold State.readRegAt
  split
  · next x _ => cases x <;> rfl
  · rfl

/-- A write to a register neither reads nor writes the two stores. -/
theorem writeRegAt_withInternal (s : State) (r w : Memory) (v : Word) (a : Nat) :
    (s.withInternal r w).writeRegAt a v = (s.writeRegAt a v).withInternal r w := by
  unfold State.writeRegAt
  split
  · next x _ =>
    cases x
    case ctrl | inLen | blkN | paramK | paramM => refine ite_withInternal ?_ ?_ <;> rfl
    all_goals rfl
  · rfl

/-- A host access neither reads nor writes the two stores. -/
theorem hostAccess_withInternal (s : State) (r w : Memory) (a : Access) :
    (s.withInternal r w).hostAccess a = (s.hostAccess a).withInternal r w := by
  have hcfg : (s.withInternal r w).cfg = s.cfg := rfl
  cases a with
  | read off width =>
    simp only [State.hostAccess, State.hostRead, hcfg]
    split
    · rfl
    · rw [readRegAt_withInternal]; rfl
    · rfl
    · rfl
    · refine ite_withInternal ?_ ?_ <;> rfl
  | write off width v =>
    simp only [State.hostAccess, State.hostWrite, hcfg]
    split
    · rfl
    · rw [writeRegAt_withInternal]; rfl
    · refine congrArg (State.answer · false 0) (ite_withInternal ?_ ?_) <;> rfl
    · refine congrArg (State.answer · false 0) (ite_withInternal ?_ ?_) <;> rfl
    · rfl

/-- A step shows WRAM never, and MRAM only while a matrix is held. -/
theorem step_withInternal (h : r = s.mram ∨ s.mvalid = false) :
    SameOutside s r w (step s) (step (s.withInternal r w)) := by
  cases hin : s.inbox with
  | nil =>
    rw [step_of_empty hin, step_of_empty (s := s.withInternal r w) hin]
    exact coreTurn_withInternal h
  | cons x rest =>
    rw [step_of_cons hin, step_of_cons (s := s.withInternal r w) hin]
    cases x with
    | access a =>
      have hkept := hostAccess_untouched { s with inbox := rest } a
      change SameOutside s r w (.next _) (.next ((State.withInternal { s with inbox := rest } r w).hostAccess a))
      rw [hostAccess_withInternal]
      exact .kept hkept.mram hkept.wram
    | rst => exact .next _ _ (fun _ => rfl) (fun _ => rfl)
    | entropy b => exact .kept rfl rfl
    | core => exact coreTurn_withInternal (s := { s with inbox := rest }) h

end

/-- Settles O55: `step_withInternal` and `exec_withInternal`, with one of the two stores left as it is. -/
theorem internalStoresUnobservable : Obligations.InternalStoresUnobservable := by
  unfold Obligations.InternalStoresUnobservable
  refine ⟨fun s t w h => ⟨?_, fun hm r => ?_⟩, fun i s t w h => ⟨?_, fun hm r => ?_⟩⟩
  · obtain ⟨r', w', hr, -, h'⟩ := step_withInternal (r := s.mram) (w := w) (.inl rfl) t h
    rw [hr rfl] at h'
    exact ⟨w', h'⟩
  · obtain ⟨r', w', -, hw, h'⟩ := step_withInternal (r := r) (w := s.wram) (.inr hm) t h
    rw [hw rfl] at h'
    exact ⟨r', h'⟩
  · obtain ⟨r', w', hr, -, h'⟩ := exec_withInternal (r := s.mram) (w := w) i (.inl rfl) t h
    rw [hr rfl] at h'
    exact ⟨w', h'⟩
  · obtain ⟨r', w', -, hw, h'⟩ := exec_withInternal (r := r) (w := s.wram) i (.inr hm) t h
    rw [hw rfl] at h'
    exact ⟨r', h'⟩

end Sys2Proof.Machine

/-! PROOFS. The statements about the bus and the buffers behind it (spec 20 R60 to R69, R76, R84): what a host access to
each aperture answers and changes, and the order in which the inputs are served. -/

namespace Sys2Proof.Machine

/-! ## What a host access selects -/

/-- A permitted access to aperture 1 selects BLT at its local offset. -/
theorem targetOf_blt {c : Config} {off : Word} {width : Nat} (ha : apertureNo off = 1)
    (hw : WordAccess (4 * c.nMax) (localOffset off) width) : targetOf c off width = some (.blt (localOffset off)) :=
  targetOf_eq_some.2 (.inr (.inl ⟨ha, hw, rfl⟩))

/-- A permitted access to aperture 2 selects IBUF at its local offset. -/
theorem targetOf_ibuf {c : Config} {off : Word} {width : Nat} (ha : apertureNo off = 2)
    (hw : ByteAccess c.ibufBytes (localOffset off) width) : targetOf c off width = some (.ibuf (localOffset off)) :=
  targetOf_eq_some.2 (.inr (.inr (.inl ⟨ha, hw, rfl⟩)))

/-- A permitted access to aperture 3 selects OBUF at its local offset. -/
theorem targetOf_obuf {c : Config} {off : Word} {width : Nat} (ha : apertureNo off = 3)
    (hw : ByteAccess c.obufBytes (localOffset off) width) : targetOf c off width = some (.obuf (localOffset off)) :=
  targetOf_eq_some.2 (.inr (.inr (.inr ⟨ha, hw, rfl⟩)))

/-- Only an access to aperture 3 selects OBUF. -/
theorem apertureNo_of_targetOf_obuf {c : Config} {off : Word} {width a : Nat}
    (h : targetOf c off width = some (.obuf a)) : apertureNo off = 3 := by
  rcases targetOf_eq_some.1 h with ⟨-, -, h⟩ | ⟨-, -, h⟩ | ⟨-, -, h⟩ | ⟨ha, -, -⟩
  · cases h
  · cases h
  · cases h
  · exact ha

/-! ## What is refused, and what is answered -/

section

variable {s : State} {off : Word} {width : Nat}

/-- A read that is not permitted is a bus error (20 R63). -/
theorem hostAccess_read_refused (h : ¬ Permitted s.cfg off width) :
    s.hostAccess (.read off width) = s.answer true 0 := by
  simp only [State.hostAccess, State.hostRead, targetOf_eq_none.2 h]

/-- A write that is not permitted is a bus error (20 R63). -/
theorem hostAccess_write_refused (v : Word) (h : ¬ Permitted s.cfg off width) :
    s.hostAccess (.write off width v) = s.answer true 0 := by
  simp only [State.hostAccess, State.hostWrite, targetOf_eq_none.2 h]

/-- A write to aperture 3 is a bus error, permitted or not (20 R63, R68). -/
theorem hostAccess_write_obuf (v : Word) (ha : apertureNo off = 3) :
    s.hostAccess (.write off width v) = s.answer true 0 := by
  by_cases hp : Permitted s.cfg off width
  · have hw : ByteAccess s.cfg.obufBytes (localOffset off) width := by simpa [Permitted, ha] using hp
    simp only [State.hostAccess, State.hostWrite, targetOf_obuf ha hw]
  · exact hostAccess_write_refused v hp

/-- Everything a read can do: a bus error, an answer, or for an OBUF read while BUSY an answer and a used draw. -/
theorem hostAccess_read_cases (s : State) (off : Word) (width : Nat) :
    (¬ Permitted s.cfg off width ∧ s.hostAccess (.read off width) = s.answer true 0) ∨
    (∃ d, s.hostAccess (.read off width) = s.answer false d) ∨
    (apertureNo off = 3 ∧ s.busy = true ∧ ∃ d, s.hostAccess (.read off width) = s.drawn.answer false d) := by
  simp only [State.hostAccess, State.hostRead]
  split
  · next h => exact .inl ⟨targetOf_eq_none.1 h, rfl⟩
  · exact .inr (.inl ⟨_, rfl⟩)
  · exact .inr (.inl ⟨_, rfl⟩)
  · exact .inr (.inl ⟨_, rfl⟩)
  · next h =>
    split
    · next hb => exact .inr (.inr ⟨apertureNo_of_targetOf_obuf h, hb, _, rfl⟩)
    · exact .inr (.inl ⟨_, rfl⟩)

/-- A permitted read is answered without an error. -/
theorem hostAccess_read_response (hp : Permitted s.cfg off width) :
    ∃ d, (s.hostAccess (.read off width)).response = some { error := false, data := d } := by
  rcases hostAccess_read_cases s off width with ⟨hn, -⟩ | ⟨d, h⟩ | ⟨-, -, d, h⟩
  · exact absurd hp hn
  · exact ⟨d, by rw [h]; rfl⟩
  · exact ⟨d, by rw [h]; rfl⟩

/-- A permitted write outside aperture 3 is answered without an error. -/
theorem hostAccess_write_response (v : Word) (hp : Permitted s.cfg off width) (ha : apertureNo off ≠ 3) :
    (s.hostAccess (.write off width v)).response = some { error := false, data := 0 } := by
  simp only [State.hostAccess, State.hostWrite]
  split
  · next h => exact absurd hp (targetOf_eq_none.1 h)
  · rfl
  · rfl
  · rfl
  · next h => exact absurd (apertureNo_of_targetOf_obuf h) ha

/-! ## Reads and writes of the buffers -/

/-- A read of IBUF answers its bytes (20 R67). -/
theorem hostAccess_read_ibuf (ha : apertureNo off = 2) (hw : ByteAccess s.cfg.ibufBytes (localOffset off) width) :
    s.hostAccess (.read off width) = s.answer false (valueOfBytes (s.ibuf.readBytes (localOffset off) width)) := by
  simp only [State.hostAccess, State.hostRead, targetOf_ibuf ha hw]

/-- A write to IBUF stores its bytes under the lock of BUSY (20 R67). -/
theorem hostAccess_write_ibuf (v : Word) (ha : apertureNo off = 2)
    (hw : ByteAccess s.cfg.ibufBytes (localOffset off) width) :
    s.hostAccess (.write off width v) =
      (s.unlessBusy { s with ibuf := s.ibuf.writeBytes (localOffset off) (bytesOfValue v width) }).answer false 0 := by
  simp only [State.hostAccess, State.hostWrite, targetOf_ibuf ha hw]

/-- A read of OBUF while idle answers its bytes (20 R68). -/
theorem hostAccess_read_obuf_of_idle (hb : s.busy = false) (ha : apertureNo off = 3)
    (hw : ByteAccess s.cfg.obufBytes (localOffset off) width) :
    s.hostAccess (.read off width) = s.answer false (valueOfBytes (s.obuf.readBytes (localOffset off) width)) := by
  simp [State.hostAccess, State.hostRead, targetOf_obuf ha hw, hb]

/-- A read of OBUF while BUSY answers free bytes and uses their draw (20 R68). -/
theorem hostAccess_read_obuf_of_busy (hb : s.busy = true) (ha : apertureNo off = 3)
    (hw : ByteAccess s.cfg.obufBytes (localOffset off) width) :
    s.hostAccess (.read off width) = s.drawn.answer false (valueOfBytes (s.freeBytes width)) := by
  simp [State.hostAccess, State.hostRead, targetOf_obuf ha hw, hb]

/-- A read of BLT answers its bytes (20 R69). -/
theorem hostAccess_read_blt (ha : apertureNo off = 1) (hw : WordAccess (4 * s.cfg.nMax) (localOffset off) width) :
    s.hostAccess (.read off width) = s.answer false (valueOfBytes (s.blt.readBytes (localOffset off) width)) := by
  simp only [State.hostAccess, State.hostRead, targetOf_blt ha hw]

/-- A write to BLT stores its bytes under the lock of BUSY (20 R69). -/
theorem hostAccess_write_blt (v : Word) (ha : apertureNo off = 1)
    (hw : WordAccess (4 * s.cfg.nMax) (localOffset off) width) :
    s.hostAccess (.write off width v) =
      (s.unlessBusy { s with blt := s.blt.writeBytes (localOffset off) (bytesOfValue v width) }).answer false 0 := by
  simp only [State.hostAccess, State.hostWrite, targetOf_blt ha hw]

/-! ## Values and bytes -/

/-- Byte `t` of the value read from a store is the store's byte (20 R64). -/
theorem valueOfBytes_readBytes_byte (m : Memory) (a : Nat) {t : Nat} (ht : t < width) (h4 : width ≤ 4) :
    (valueOfBytes (m.readBytes a width)).extractLsb' (8 * t) 8 = m.read (a + t) := by
  rw [valueOfBytes_byte _ t (by simpa using ht) (by omega), Memory.readBytes_getElem]

@[simp] theorem State.freeBytes_length (s : State) (width : Nat) : (s.freeBytes width).length = width := by
  simp [State.freeBytes]

/-- Byte `t` of the value read from OBUF while BUSY is a byte of the fresh draw. -/
theorem valueOfBytes_freeBytes_byte (s : State) {t : Nat} (ht : t < width) (h4 : width ≤ 4) :
    (valueOfBytes (s.freeBytes width)).extractLsb' (8 * t) 8 = Config.freeByte s.free t := by
  rw [valueOfBytes_byte _ t (by simpa using ht) (by omega)]
  simp [State.freeBytes]

/-- A value read as `width` bytes has no bit above them. -/
theorem valueOfBytes_lt_of_length {bs : List Byte} (h : bs.length = width) :
    (valueOfBytes bs).toNat < 2 ^ (8 * width) :=
  h ▸ valueOfBytes_lt bs

/-- A permitted access to IBUF or OBUF has at most 4 bytes (20 R62). -/
theorem byteAccess_width_le {size a : Nat} (h : ByteAccess size a width) : width ≤ 4 := by
  obtain ⟨hw, -, -⟩ := h
  omega

/-! ## Reads do not look at the last answer -/

/-- No register shows the last answer. -/
theorem readRegAt_answer (s : State) (x : Bool) (d : Word) (a : Nat) :
    (s.answer x d).readRegAt a = s.readRegAt a := by
  unfold State.readRegAt
  split
  · next r _ => cases r <;> rfl
  · rfl

/-- A read does not depend on the last answer, which it replaces. -/
theorem hostAccess_read_answer (s : State) (x : Bool) (d : Word) (off : Word) (width : Nat) :
    (s.answer x d).hostAccess (.read off width) = s.hostAccess (.read off width) := by
  simp only [State.hostAccess, State.hostRead, State.answer_cfg]
  split
  · rfl
  · rw [readRegAt_answer]; rfl
  · rfl
  · rfl
  · rfl

end

/-! ## The statements about the bus -/

/-- Settles O20: each refused access is one answer, and a permitted one selects a target that answers. -/
theorem busErrors : Obligations.BusErrors := by
  unfold Obligations.BusErrors
  intro s off v width
  exact ⟨fun hp => ⟨hostAccess_read_refused hp, hostAccess_write_refused v hp⟩, hostAccess_write_obuf v,
    fun hp => ⟨hostAccess_read_response hp, hostAccess_write_response v hp⟩⟩

/-- The Core's turn never writes IBUF (20 R67). -/
theorem coreTurn_ibuf {s t : State} (h : coreTurn s = .next t) : t.ibuf = s.ibuf := by
  rcases coreTurn_cases h with ⟨-, rfl⟩ | ⟨-, i, -, he⟩ | ⟨-, -, rfl⟩
  · rfl
  · exact (exec_keptByCommand he).ibuf
  · rfl

/-- Settles O21: the read's bytes, the two cases of the lock of BUSY, and the frame of the Core's turn. -/
theorem ibufAccesses : Obligations.IbufAccesses := by
  unfold Obligations.IbufAccesses
  refine ⟨fun s off v width ha hw => ⟨⟨_, hostAccess_read_ibuf ha hw, fun t ht => ?_, ?_⟩, fun hb hwf => ?_,
    fun hb => ?_⟩, fun s t => coreTurn_ibuf⟩
  · exact valueOfBytes_readBytes_byte _ _ ht (byteAccess_width_le hw)
  · exact valueOfBytes_lt_of_length (Memory.readBytes_length ..)
  · rw [hostAccess_write_ibuf v ha hw, State.unlessBusy_of_idle _ hb]
    refine ⟨_, rfl, fun t ht => ?_, fun a hout => ?_⟩
    · rw [Memory.read_writeBytes_inside hwf _ _ (by simpa using ht), bytesOfValue_getElem]
    · exact Memory.read_writeBytes_outside _ _ _ (by simpa using hout)
  · rw [hostAccess_write_ibuf v ha hw, State.unlessBusy_of_busy _ hb]
    rfl

/-- Settles O22: the two cases of BUSY for a read, and the bus error for every write. -/
theorem obufAccesses : Obligations.ObufAccesses := by
  unfold Obligations.ObufAccesses
  refine fun s off width ha => ⟨fun hw => ?_, fun v => hostAccess_write_obuf v ha⟩
  have h4 := byteAccess_width_le hw
  by_cases hb : s.busy = true
  · refine ⟨_, fun hidle => ?_, fun _ => ⟨hostAccess_read_obuf_of_busy hb ha hw, fun t ht => ?_⟩, ?_⟩
    · exact absurd hb (by simp [hidle])
    · exact valueOfBytes_freeBytes_byte s ht h4
    · exact valueOfBytes_lt_of_length (State.freeBytes_length ..)
  · refine ⟨_, fun hidle => ⟨hostAccess_read_obuf_of_idle hidle ha hw, fun t ht => ?_⟩, fun h => absurd h hb, ?_⟩
    · exact valueOfBytes_readBytes_byte _ _ ht h4
    · exact valueOfBytes_lt_of_length (Memory.readBytes_length ..)

/-! ### Entries of BLT -/

/-- The state with the word `v` stored as BLT entry `i`. -/
def State.withBltEntry (s : State) (i : Nat) (v : Word) : State :=
  { s with blt := s.blt.writeBytes (4 * i) (bytesOfValue v 4) }

/-- A stored entry reads back. -/
theorem State.bltEntry_withBltEntry_same {s : State} (hwf : s.blt.wf) (i : Nat) (v : Word) :
    (s.withBltEntry i v).bltEntry i = v := by
  have h := Memory.readBytes_writeBytes hwf (4 * i) (bytesOfValue v 4)
  rw [bytesOfValue_length] at h
  exact (congrArg valueOfBytes h).trans (valueOfBytes_bytesOfValue v)

/-- Storing an entry leaves every other entry. -/
theorem State.bltEntry_withBltEntry_other (s : State) {i j : Nat} (v : Word) (h : j ≠ i) :
    (s.withBltEntry i v).bltEntry j = s.bltEntry j := by
  refine congrArg valueOfBytes (Memory.readBytes_congr fun t ht => ?_)
  exact Memory.read_writeBytes_outside _ _ _ (by rw [bytesOfValue_length]; omega)

/-- The offset of entry `i` is a permitted access to aperture 1 (20 R60 to R62). -/
theorem bltOffset_access {c : Config} {off : Word} {i : Nat} (hi : i < c.nMax) (hoff : off.toNat = 2 ^ 28 + 4 * i)
    (hlow : i < 2 ^ 26) :
    apertureNo off = 1 ∧ localOffset off = 4 * i ∧ WordAccess (4 * c.nMax) (localOffset off) 4 := by
  have hlocal : localOffset off = 4 * i := by simp only [localOffset]; omega
  refine ⟨by simp only [apertureNo]; omega, hlocal, rfl, ?_⟩
  omega

/-- Settles O23: an access to entry `i` is a read or a write of the four bytes at `4*i`. -/
theorem bltAccesses : Obligations.BltAccesses := by
  unfold Obligations.BltAccesses
  intro s off v i hi hoff hlow
  obtain ⟨ha, hlocal, hw⟩ := bltOffset_access hi hoff hlow
  have hread := hostAccess_read_blt (s := s) ha hw
  have hwrite := hostAccess_write_blt (s := s) v ha hw
  rw [hlocal] at hread hwrite
  refine ⟨hread, fun hb hwf => ⟨(s.withBltEntry i v).answer false 0, ?_, rfl, ?_, fun j hj => ?_⟩, fun hb => ?_⟩
  · rw [hwrite, State.unlessBusy_of_idle _ hb]
    rfl
  · exact State.bltEntry_withBltEntry_same hwf i v
  · exact State.bltEntry_withBltEntry_other s v hj
  · rw [hwrite, State.unlessBusy_of_busy _ hb]
    rfl

/-- Settles O24: a read that only answers gives the same answer again, for no read looks at the last answer. -/
theorem readsHaveNoSideEffect : Obligations.ReadsHaveNoSideEffect := by
  unfold Obligations.ReadsHaveNoSideEffect
  intro s off width
  rcases hostAccess_read_cases s off width with ⟨-, h⟩ | ⟨d, h⟩ | ⟨ha, hb, d, h⟩
  · rw [h]
    exact ⟨rfl, fun _ => ⟨rfl, (hostAccess_read_answer s true 0 off width).trans h⟩⟩
  · rw [h]
    exact ⟨rfl, fun _ => ⟨rfl, (hostAccess_read_answer s false d off width).trans h⟩⟩
  · rw [h]
    refine ⟨rfl, fun hother => ?_⟩
    rcases hother with hna | hidle
    · exact absurd ha hna
    · exact absurd hb (by simp [hidle])

/-! ## The order of the inputs -/

/-- Settles O6: the step serves the first input, and an idle Core's turn changes nothing. -/
theorem inputsServedInOrder : Obligations.InputsServedInOrder := by
  unfold Obligations.InputsServedInOrder
  refine fun s rest => ⟨fun a h => step_of_cons h, fun h => step_of_cons h, fun b h => step_of_cons h,
    fun hb h => ?_, fun hb h => ?_⟩
  · exact (step_of_cons h).trans (coreTurn_of_idle hb)
  · exact (step_of_empty h).trans (coreTurn_of_idle hb)

/-! ## BASE (20 R84) -/

/-- The state of a block at another BASE. -/
def State.withBase (s : State) (b : Nat) : State := { s with cfg := { s.cfg with base := b } }

/-- Where the outcome `o` is a next state, the outcome `o'` is that state at the other BASE. -/
def SameAtBase (b : Nat) (o o' : Host.Outcome State Fault Refusal) : Prop :=
  ∀ t, o = .next t → o' = .next (t.withBase b)

section

variable {b : Nat}

/-- One next state at the two places. -/
theorem SameAtBase.next (t : State) : SameAtBase b (.next t) (.next (t.withBase b)) := by
  rintro _ ⟨⟩
  rfl

/-- Two choices by one condition. -/
theorem SameAtBase.ite {p : Prop} [Decidable p] {o₁ o₁' o₂ o₂' : Host.Outcome State Fault Refusal}
    (h₁ : SameAtBase b o₁ o₁') (h₂ : SameAtBase b o₂ o₂') :
    SameAtBase b (if p then o₁ else o₂) (if p then o₁' else o₂') := by
  split
  · exact h₁
  · exact h₂

/-- A choice of states made by one condition at the two places. -/
theorem ite_withBase {t₁ t₂ t₁' t₂' : State} {p : Prop} [Decidable p] (h₁ : t₁' = t₁.withBase b)
    (h₂ : t₂' = t₂.withBase b) : (if p then t₁' else t₂') = (if p then t₁ else t₂).withBase b := by
  rw [h₁, h₂, apply_ite (State.withBase · b)]

/-- DECODE does not look at BASE from its gate on. -/
theorem decodeGated_withBase (s : State) (b : Nat) : decodeGated (s.withBase b) = (decodeGated s).withBase b := by
  have hfirst : (s.withBase b).firstMismatch = s.firstMismatch := rfl
  unfold decodeGated
  rw [hfirst]
  refine ite_withBase rfl ?_
  cases s.firstMismatch with
  | some i => rfl
  | none => rfl

/-- No command looks at BASE. -/
theorem exec_withBase (i : Instr) (s : State) (b : Nat) : SameAtBase b (exec i s) (exec i (s.withBase b)) := by
  have raised (e : ErrCode) : SameAtBase b (.next (s.raise e)) (.next ((s.withBase b).raise e)) := .next _
  cases i with
  | genMatrix => exact .ite (raised _) <| .ite (raised _) <| .ite (.next _) (.next _)
  | loadMatrix => exact .ite (raised _) <| .ite (raised _) <| .ite (raised _) <| .ite (raised _) (.next _)
  | exportMatrix => exact .ite (raised _) <| .ite (raised _) (.next _)
  | clearMatrix => exact .next _
  | encode => exact .ite (raised _) <| .ite (raised _) <| .ite (raised _) <| .ite (raised _) (.next _)
  | decode =>
    refine .ite (raised _) <| .ite (raised _) <| .ite (raised _) <| .ite (raised _) <| .ite (raised _) <|
      .ite (raised _) ?_
    rw [decodeGated_withBase]
    exact .next _

/-- The Core's turn looks at BASE no more than its command does. -/
theorem coreTurn_withBase (s : State) (b : Nat) : SameAtBase b (coreTurn s) (coreTurn (s.withBase b)) := by
  cases hb : s.busy with
  | false =>
    rw [coreTurn_of_idle hb, coreTurn_of_idle (s := s.withBase b) hb]
    exact .next s
  | true =>
    cases hd : decodeWord s.cmdw with
    | ok i =>
      rw [coreTurn_of_ok hb hd, coreTurn_of_ok (s := s.withBase b) hb hd]
      exact exec_withBase i s b
    | error e =>
      rw [coreTurn_of_error hb hd, coreTurn_of_error (s := s.withBase b) hb hd]
      exact .next _

/-- No register shows BASE. -/
theorem readRegAt_withBase (s : State) (b a : Nat) : (s.withBase b).readRegAt a = s.readRegAt a := by
  unfold State.readRegAt
  split
  · next r _ => cases r <;> rfl
  · rfl

/-- A write to a register does not look at BASE. -/
theorem writeRegAt_withBase (s : State) (b : Nat) (v : Word) (a : Nat) :
    (s.withBase b).writeRegAt a v = (s.writeRegAt a v).withBase b := by
  unfold State.writeRegAt
  split
  · next r _ =>
    cases r
    case ctrl | inLen | blkN | paramK | paramM => exact ite_withBase rfl rfl
    all_goals rfl
  · rfl

/-- Offsets are relative to BASE: what an access selects does not depend on it (20 R60). -/
theorem targetOf_withBase (s : State) (b : Nat) (off : Word) (width : Nat) :
    targetOf (s.withBase b).cfg off width = targetOf s.cfg off width := rfl

/-- A host access does not look at BASE. -/
theorem hostAccess_withBase (s : State) (b : Nat) (a : Access) :
    (s.withBase b).hostAccess a = (s.hostAccess a).withBase b := by
  cases a with
  | read off width =>
    simp only [State.hostAccess, State.hostRead, targetOf_withBase]
    split
    · rfl
    · rw [readRegAt_withBase]; rfl
    · rfl
    · rfl
    · exact ite_withBase rfl rfl
  | write off width v =>
    simp only [State.hostAccess, State.hostWrite, targetOf_withBase]
    split
    · rfl
    · rw [writeRegAt_withBase]; rfl
    · refine congrArg (State.answer · false 0) (ite_withBase ?_ ?_) <;> rfl
    · refine congrArg (State.answer · false 0) (ite_withBase ?_ ?_) <;> rfl
    · rfl

/-- A step does not look at BASE. -/
theorem step_withBase (s : State) (b : Nat) : SameAtBase b (step s) (step (s.withBase b)) := by
  cases hin : s.inbox with
  | nil =>
    rw [step_of_empty hin, step_of_empty (s := s.withBase b) hin]
    exact coreTurn_withBase s b
  | cons x rest =>
    rw [step_of_cons hin, step_of_cons (s := s.withBase b) hin]
    cases x with
    | access a =>
      change SameAtBase b (.next _) (.next ((State.withBase { s with inbox := rest } b).hostAccess a))
      rw [hostAccess_withBase]
      exact .next _
    | rst => exact .next _
    | entropy x => exact .next _
    | core => exact coreTurn_withBase { s with inbox := rest } b

end

/-- Settles O56: `step_withBase`. -/
theorem baseHasNoEffect : Obligations.BaseHasNoEffect := by
  unfold Obligations.BaseHasNoEffect
  exact fun s t b h => step_withBase s b t h

end Sys2Proof.Machine

/-! PROOFS. The statements about the stores over a command (spec 20 R70): what each command may write, and that DECODE
depends on its inputs alone. -/

namespace Sys2Proof.Machine

/-! ## What a command writes (20 R70, 60 R200) -/

section

variable {i : Instr} {s t : State}

/-- Only the three commands that install or clear a matrix write MRAM. -/
theorem exec_mram (h : exec i s = .next t) :
    t.mram = s.mram ∨ i = .genMatrix ∨ i = .loadMatrix ∨ i = .clearMatrix := by
  rcases exec_cases h with ⟨rfl, -⟩ | ⟨e, -, rfl, -⟩ | ⟨-, rfl⟩ | ⟨-, j, -, rfl⟩ | ⟨-, -, -, rfl⟩ | ⟨-, -, rfl⟩ |
    ⟨-, -, rfl⟩ | ⟨hi, -⟩ | ⟨hi, -⟩ | ⟨hi, -⟩
  iterate 7 exact .inl rfl
  · exact .inr (.inr (.inr hi))
  · exact .inr (.inr (.inl hi))
  · exact .inr (.inl hi)

/-- Only GEN_MATRIX takes entropy (60 R211). -/
theorem exec_entropy (h : exec i s = .next t) : t.entropy = s.entropy ∨ i = .genMatrix := by
  rcases exec_cases h with ⟨rfl, -⟩ | ⟨e, -, rfl, -⟩ | ⟨-, rfl⟩ | ⟨-, j, -, rfl⟩ | ⟨-, -, -, rfl⟩ | ⟨-, -, rfl⟩ |
    ⟨-, -, rfl⟩ | ⟨-, rfl⟩ | ⟨-, -, rfl⟩ | ⟨hi, -⟩
  iterate 9 exact .inl rfl
  exact .inr hi

/-- Only DECODE works in WRAM. -/
theorem exec_scratchKept (h : exec i s = .next t) : ScratchKept s t ∨ i = .decode := by
  rcases exec_cases h with ⟨rfl, -⟩ | ⟨e, -, rfl, -⟩ | ⟨hi, -⟩ | ⟨hi, -⟩ | ⟨hi, -⟩ | ⟨-, -, rfl⟩ |
    ⟨-, -, rfl⟩ | ⟨-, rfl⟩ | ⟨-, -, rfl⟩ | ⟨-, -, rfl⟩
  iterate 2 exact .inl ⟨rfl, rfl⟩
  iterate 3 exact .inr hi
  iterate 5 exact .inl ⟨rfl, rfl⟩

/-- A command wrote its output bytes from `OBUF[0]` on, inside OBUF, and OUT_LEN is their number (10 R31, R39). -/
structure OutputWritten (s t : State) (output : List Byte) : Prop where
  obuf : t.obuf = s.obuf.writeBytes 0 output
  fits : output.length ≤ s.cfg.obufBytes
  outLen : t.outLen = BitVec.ofNat 32 output.length

/-- Only EXPORT_MATRIX, ENCODE and DECODE write OBUF, and they write their output. -/
theorem exec_obuf (h : exec i s = .next t) :
    t.obuf = s.obuf ∨
    ((i = .exportMatrix ∨ i = .encode ∨ i = .decode) ∧ ∃ output, OutputWritten s t output) := by
  rcases exec_cases h with ⟨rfl, -⟩ | ⟨e, -, rfl, -⟩ | ⟨-, rfl⟩ | ⟨-, j, -, rfl⟩ | ⟨hi, hfits, -, rfl⟩ |
    ⟨hi, hfits, rfl⟩ | ⟨hi, hfits, rfl⟩ | ⟨-, rfl⟩ | ⟨-, -, rfl⟩ | ⟨-, -, rfl⟩
  iterate 4 exact .inl rfl
  · have hlen := s.decodedData_length
    exact .inr ⟨.inr (.inr hi), s.decodedData, rfl, hlen ▸ hfits, hlen ▸ rfl⟩
  · have hlen := s.encodedBlocks_length (s.len / s.k)
    exact .inr ⟨.inr (.inl hi), s.encodedBlocks (s.len / s.k), rfl, hlen ▸ hfits, hlen ▸ rfl⟩
  · have hlen := s.matrixBytes_length
    exact .inr ⟨.inl hi, s.matrixBytes, rfl, hlen ▸ hfits, hlen ▸ rfl⟩
  iterate 3 exact .inl rfl

/-- OUT_LEN is exact: no output is longer than OBUF (log entry 17). -/
theorem OutputWritten.outLen_toNat {output : List Byte} (h : OutputWritten s t output) (hc : s.cfg.WellFormed) :
    t.outLen.toNat = output.length := by
  have hfits := h.fits
  have hle := hc.obufBytes_le
  rw [h.outLen, BitVec.toNat_ofNat, Nat.mod_eq_of_lt (by omega)]

/-- No command changes a byte of OBUF at or beyond OUT_LEN. -/
theorem exec_obuf_read_of_outLen_le (h : exec i s = .next t) (hc : s.cfg.WellFormed) {a : Nat}
    (ha : t.outLen.toNat ≤ a) : t.obuf.read a = s.obuf.read a := by
  rcases exec_obuf h with hkept | ⟨-, output, hout⟩
  · rw [hkept]
  · rw [hout.outLen_toNat hc] at ha
    rw [hout.obuf, Memory.read_writeBytes_outside _ _ _ (.inr (by omega))]

end

/-- Settles O54: one lemma for each store says which commands write it. -/
theorem commandFrames : Obligations.CommandFrames := by
  unfold Obligations.CommandFrames
  intro i s t h
  refine ⟨.inr (exec_keptByCommand h), fun hi => ?_, fun hi => ⟨?_, ?_⟩, (exec_entropy h).resolve_right,
    (exec_scratchKept h).resolve_right, fun hc a ha _ => exec_obuf_read_of_outLen_le h hc ha⟩
  · refine (exec_obuf h).resolve_right fun hwritten => ?_
    obtain ⟨hj, -⟩ := hwritten
    rcases hi with rfl | rfl | rfl <;> simp at hj
  · refine (exec_mram h).resolve_right fun hj => ?_
    rcases hi with rfl | rfl | rfl <;> simp at hj
  · refine (exec_mvalid h).resolve_right fun hj => ?_
    rcases hi with rfl | rfl | rfl <;> simp at hj

/-! ## What DECODE reads (20 R70) -/

/-- Byte `x` of block `i` lies inside `n` blocks of `w` bytes. -/
theorem blockByte_lt {n w i x : Nat} (hi : i < n) (hx : x < w) : i * w + x < n * w :=
  calc i * w + x < i * w + w := by omega
    _ = (i + 1) * w := by ring
    _ ≤ n * w := Nat.mul_le_mul_right w hi

/-- Two states agree on everything DECODE may read (20 R70). -/
structure SameDecodeInputs (s u : State) : Prop where
  cfg : u.cfg = s.cfg
  mvalid : u.mvalid = s.mvalid
  paramK : u.paramK = s.paramK
  paramM : u.paramM = s.paramM
  inLen : u.inLen = s.inLen
  blkN : u.blkN = s.blkN
  blt : ∀ i < s.n, u.bltEntry i = s.bltEntry i
  mram : ∀ a < s.k * s.m, u.mram.read a = s.mram.read a
  ibuf : ∀ a < s.len, u.ibuf.read a = s.ibuf.read a

/-- DECODE ended in `t` and in `v` with the same outcome and the same output bytes. -/
structure SameDecodeResult (t v : State) : Prop where
  err : v.err = t.err
  outLen : v.outLen = t.outLen
  blkOut : v.blkOut = t.blkOut
  failIndex : v.failIndex = t.failIndex
  output : ∀ a < t.outLen.toNat, v.obuf.read a = t.obuf.read a

/-- Two outcomes that are next states are the same result of DECODE. -/
def SameDecodeOutcome (o o' : Host.Outcome State Fault Refusal) : Prop :=
  ∀ t v, o = .next t → o' = .next v → SameDecodeResult t v

theorem SameDecodeResult.outcome {t v : State} (h : SameDecodeResult t v) :
    SameDecodeOutcome (.next t) (.next v) := by
  rintro _ _ ⟨⟩ ⟨⟩
  exact h

/-- Two choices by one condition. -/
theorem SameDecodeOutcome.ite {p : Prop} [Decidable p] {o₁ o₁' o₂ o₂' : Host.Outcome State Fault Refusal}
    (h₁ : p → SameDecodeOutcome o₁ o₁') (h₂ : ¬ p → SameDecodeOutcome o₂ o₂') :
    SameDecodeOutcome (if p then o₁ else o₂) (if p then o₁' else o₂') := by
  split
  · next hp => exact h₁ hp
  · next hp => exact h₂ hp

/-- The same error without a block index leaves the same result. -/
theorem sameDecodeResult_raise (s u : State) (e : ErrCode) : SameDecodeResult (s.raise e) (u.raise e) :=
  ⟨rfl, rfl, rfl, rfl, fun _ ha => absurd ha (Nat.not_lt_zero _)⟩

/-- The same failed block leaves the same result. -/
theorem sameDecodeResult_raiseAt (s u : State) (i : Nat) : SameDecodeResult (s.raiseAt i) (u.raiseAt i) :=
  ⟨rfl, rfl, rfl, rfl, fun _ ha => absurd ha (Nat.not_lt_zero _)⟩

namespace SameDecodeInputs

variable {s u : State} (h : SameDecodeInputs s u)

include h

theorem k : u.k = s.k := congrArg BitVec.toNat h.paramK

theorem m : u.m = s.m := congrArg BitVec.toNat h.paramM

theorem len : u.len = s.len := congrArg BitVec.toNat h.inLen

theorem n : u.n = s.n := congrArg BitVec.toNat h.blkN

theorem matrix : u.matrix = s.matrix := State.matrix_congr h.paramK h.paramM h.mram

theorem lengthsOk : u.lengthsOk = s.lengthsOk := by
  rw [Bool.eq_iff_iff, State.lengthsOk_iff, State.lengthsOk_iff, h.n, h.k, h.m]
  exact forall₂_congr fun i hi => by rw [h.blt i hi]

variable (htotal : s.len = s.n * (s.k + s.m))

include htotal

/-- The bytes of block `i` are among the IN_LEN input bytes. -/
theorem ibuf_block {i x : Nat} (hi : i < s.n) (hx : x < s.k + s.m) :
    u.ibuf.read (i * (s.k + s.m) + x) = s.ibuf.read (i * (s.k + s.m) + x) :=
  h.ibuf _ (htotal ▸ blockByte_lt hi hx)

theorem blockData {i : Nat} (hi : i < s.n) : u.blockData i = s.blockData i := by
  simp only [State.blockData, h.k, h.m]
  exact Memory.readBytes_congr fun t ht => h.ibuf_block htotal hi (by omega)

theorem blockParity {i : Nat} (hi : i < s.n) : u.blockParity i = s.blockParity i := by
  simp only [State.blockParity, h.k, h.m]
  refine Memory.readBytes_congr fun t ht => ?_
  rw [Nat.add_assoc]
  exact h.ibuf_block htotal hi (by omega)

theorem blockMatches {i : Nat} (hi : i < s.n) : u.blockMatches i = s.blockMatches i := by
  simp only [State.blockMatches, State.blockCandidate, h.cfg, h.m, h.matrix, h.blockData htotal hi,
    h.blockParity htotal hi]

theorem firstMismatch : u.firstMismatch = s.firstMismatch := by
  simp only [State.firstMismatch, h.n]
  exact List.find?_congr fun i hi => by rw [h.blockMatches htotal (List.mem_range.1 hi)]

theorem decodedData : u.decodedData = s.decodedData := by
  simp only [State.decodedData, h.n]
  exact flatMap_range_congr fun i hi => h.blockData htotal hi

/-- The same bytes written out read the same below OUT_LEN. -/
theorem complete_result (hs : s.obuf.wf) (hu : u.obuf.wf) :
    SameDecodeResult ({ s.scratchWram with obuf := s.obuf.writeBytes 0 s.decodedData }.complete (s.n * s.k) s.n)
      ({ u.scratchWram with obuf := u.obuf.writeBytes 0 u.decodedData }.complete (u.n * u.k) u.n) := by
  rw [h.n, h.k, h.decodedData htotal]
  refine ⟨rfl, rfl, rfl, rfl, fun a ha => ?_⟩
  have hlt : a < s.decodedData.length := by
    rw [State.decodedData_length]
    exact lt_of_lt_of_le ha (Nat.mod_le _ _)
  have hread {o : Memory} (ho : o.wf) : (o.writeBytes 0 s.decodedData).read a = s.decodedData[a] := by
    simpa using Memory.read_writeBytes_inside ho 0 s.decodedData hlt
  exact (hread hu).trans (hread hs).symm

/-- From the gate on DECODE ends with the same result. -/
theorem decodeGated_result (hs : s.obuf.wf) (hu : u.obuf.wf) :
    SameDecodeResult (decodeGated s) (decodeGated u) := by
  have hcomplete := h.complete_result htotal hs hu
  unfold decodeGated
  rw [h.k, h.matrix, h.firstMismatch htotal]
  split
  · exact sameDecodeResult_raise ..
  · split
    · exact sameDecodeResult_raiseAt ..
    · exact h.k ▸ hcomplete

omit htotal

/-- DECODE ends with the same result. -/
theorem exec_outcome (hs : s.obuf.wf) (hu : u.obuf.wf) :
    SameDecodeOutcome (exec .decode s) (exec .decode u) := by
  have raised (e : ErrCode) : SameDecodeOutcome (.next (s.raise e)) (.next (u.raise e)) :=
    (sameDecodeResult_raise s u e).outcome
  simp only [exec, execDecode, h.mvalid, h.cfg, h.n, h.len, h.lengthsOk, h.k, h.m]
  refine .ite (fun _ => raised _) fun _ => .ite (fun _ => raised _) fun _ => .ite (fun _ => raised _) fun _ =>
    .ite (fun _ => raised _) fun htotal => .ite (fun _ => raised _) fun _ => .ite (fun _ => raised _) fun _ => ?_
  exact (h.decodeGated_result (not_not.1 htotal) hs hu).outcome

end SameDecodeInputs

/-- Settles O49: the two runs take the same branch of every check and write the same bytes. -/
theorem decodeReadsOnlyItsInputs : Obligations.DecodeReadsOnlyItsInputs := by
  unfold Obligations.DecodeReadsOnlyItsInputs
  intro s u t v hcfg hmv hk hm hlen hn hblt hmram hibuf hs hu ht hv
  have hin : SameDecodeInputs s u := ⟨hcfg, hmv, hk, hm, hlen, hn, hblt, hmram, hibuf⟩
  obtain ⟨herr, hout, hblk, hfail, hbytes⟩ := hin.exec_outcome hs hu t v ht hv
  exact ⟨herr, hout, hblk, hfail, hbytes⟩

end Sys2Proof.Machine

/-! PROOFS. The statements about the command words (spec 30 R90 to R95): which words and bytes decode to which command,
and how an accepted word that is no command ends. -/

namespace Sys2Proof.Machine

/-! ## The words of the commands -/

/-- The facts about the word and the bytes of every command. -/
theorem encodingStatement (i : Instr) : Laws.Encoding.Statement i := by
  cases i
  case genMatrix => exact Laws.Encoding.genMatrix
  case loadMatrix => exact Laws.Encoding.loadMatrix
  case exportMatrix => exact Laws.Encoding.exportMatrix
  case clearMatrix => exact Laws.Encoding.clearMatrix
  case encode => exact Laws.Encoding.encode
  case decode => exact Laws.Encoding.decode

@[simp] theorem rsvdField_encodeWord (i : Instr) : rsvdField (encodeWord i) = 0 := by
  obtain ⟨-, -, hrsvd, -⟩ := encodingStatement i
  exact hrsvd

@[simp] theorem decodeWord_encodeWord (i : Instr) : decodeWord (encodeWord i) = .ok i := by
  obtain ⟨-, -, -, -, hword, -⟩ := encodingStatement i
  exact hword

@[simp] theorem decode_encode (i : Instr) : decode (encode i) = .ok i := by
  obtain ⟨-, -, -, -, -, hbytes⟩ := encodingStatement i
  exact hbytes

/-- Byte 0 of a command is its opcode, and bytes 1 to 3 are the reserved zeros (30 R90). -/
theorem encode_eq (i : Instr) : encode i = [opcodeOf i, 0, 0, 0] := by
  obtain ⟨-, -, -, hbytes, -⟩ := encodingStatement i
  exact hbytes

/-- An opcode of the map with zeros above it decodes to its command. -/
theorem decode_opcodeOf (i : Instr) : decode [opcodeOf i, 0, 0, 0] = .ok i :=
  encode_eq i ▸ decode_encode i

/-- A word selects a command when it is that command's word (30 R91), and only then. -/
theorem decodeWord_eq_ok_iff {w : Word} {i : Instr} : decodeWord w = .ok i ↔ w = encodeWord i := by
  constructor
  · exact eq_encodeWord_of_decodeWord
  · rintro rfl
    exact decodeWord_encodeWord i

/-! ## The words that are no command -/

/-- A set reserved bit makes the word no command, whatever its opcode (30 R92). -/
theorem decodeWord_of_reservedBits {w : Word} (h : rsvdField w ≠ 0) : decodeWord w = .error .reservedBits := by
  unfold decodeWord
  rw [if_pos h]

/-- An opcode outside the map makes the word no command (30 R94). -/
theorem decodeWord_of_unlistedOpcode {w : Word} (hrsvd : rsvdField w = 0)
    (hopc : decodeOpcode (opcField w).toNat = none) : decodeWord w = .error .unlistedOpcode := by
  unfold decodeWord
  rw [if_neg (not_not.2 hrsvd), hopc]

/-- A word that is no command's word is rejected. -/
theorem decodeWord_error_of_ne {w : Word} (h : ∀ i, w ≠ encodeWord i) : ∃ e, decodeWord w = .error e := by
  cases hd : decodeWord w with
  | ok i => exact absurd (eq_encodeWord_of_decodeWord hd) (h i)
  | error e => exact ⟨e, rfl⟩

/-- The Core's turn ends a word that is no command's word with IllegalCommand (30 R94). -/
theorem coreTurn_of_illegal {s : State} (hb : s.busy = true) (h : ∀ i, s.cmdw ≠ encodeWord i) :
    coreTurn s = .next (s.raise .illegalCommand) := by
  obtain ⟨e, he⟩ := decodeWord_error_of_ne h
  exact coreTurn_of_error hb he

/-! ## The statements -/

/-- Settles O1: `decodeWord_eq_ok_iff` at each of the six commands. -/
theorem wordsSelectCommands : Obligations.WordsSelectCommands := by
  unfold Obligations.WordsSelectCommands
  intro w
  have selects (i : Instr) : decodeWord w = .ok i ↔ w = encodeWord i := decodeWord_eq_ok_iff
  exact ⟨selects .genMatrix, selects .loadMatrix, selects .exportMatrix, selects .clearMatrix, selects .encode,
    selects .decode⟩

/-- Settles O2: the decoder reads back the word and the bytes of every command. -/
theorem decodeOfEncode : Obligations.DecodeOfEncode := by
  unfold Obligations.DecodeOfEncode
  exact fun i => ⟨decodeWord_encodeWord i, decode_encode i, rsvdField_encodeWord i⟩

/-- Settles O3: four opcodes of the map, and one input for each of the three reasons to reject. -/
theorem writtenOutWords : Obligations.WrittenOutWords := by
  unfold Obligations.WrittenOutWords
  refine ⟨decode_opcodeOf .genMatrix, decode_opcodeOf .exportMatrix, decode_opcodeOf .encode, decode_opcodeOf .decode,
    ?unlisted, ?reserved, rfl⟩
  case unlisted => exact decodeWord_of_unlistedOpcode (by decide) (by decide)
  case reserved => exact decodeWord_of_reservedBits (by decide)

/-- Settles O4: the word is none of the six, so the Core's turn raises IllegalCommand and that is all it does. -/
theorem illegalWordsComplete : Obligations.IllegalWordsComplete := by
  unfold Obligations.IllegalWordsComplete
  refine ⟨rfl, fun s hb hgen hload hexport hclear hencode hdecode => ?_⟩
  have hillegal (i : Instr) : s.cmdw ≠ encodeWord i := by
    cases i <;> assumption
  constructor
  · intro hin
    exact (step_of_empty hin).trans (coreTurn_of_illegal hb hillegal)
  · intro rest hin
    exact (step_of_cons hin).trans (coreTurn_of_illegal hb hillegal)

end Sys2Proof.Machine

/-! PROOFS. The statements about the Parity Matrix (spec 40): what each matrix command writes, and that a held matrix
stays the same over every step. -/

namespace Sys2Proof.Machine

/-! ## What a command does to the matrix (40 R111 to R115) -/

/-- Everything a command can do to MRAM and MVALID. -/
inductive MatrixEffect (i : Instr) (s t : State) : Prop where
  | kept (mram : t.mram = s.mram) (mvalid : t.mvalid = s.mvalid)
  | installed (command : i = .genMatrix ∨ i = .loadMatrix) (empty : s.mvalid = false)
      (valid : ValidKM s.cfg s.k s.m) (idle : t.busy = false) (held : t.mvalid = true) (bytes : List Byte)
      (length : bytes.length = s.k * s.m) (mram : t.mram = s.mram.writeBytes 0 bytes)
  | cleared (command : i = .clearMatrix) (idle : t.busy = false) (empty : t.mvalid = false)
      (mram : t.mram = Memory.filled 0)

/-- Each command keeps the matrix, or it is a command that installs or clears one. -/
theorem exec_matrixEffect {i : Instr} {s t : State} (h : exec i s = .next t) : MatrixEffect i s t := by
  have kept (hi : i = .exportMatrix ∨ i = .encode ∨ i = .decode) : MatrixEffect i s t := by
    refine .kept ((exec_mram h).resolve_right ?_) ((exec_mvalid h).resolve_right ?_) <;>
      rcases hi with rfl | rfl | rfl <;> simp
  cases i with
  | genMatrix =>
    rcases execGenMatrix_cases h with ⟨-, rfl⟩ | ⟨-, -, rfl⟩ | ⟨-, -, -, rfl⟩ | ⟨hempty, hvalid, hsupply, rfl⟩
    · exact .kept rfl rfl
    · exact .kept rfl rfl
    · exact .kept rfl rfl
    · exact .installed (.inl rfl) hempty hvalid rfl rfl _ (by simpa using hsupply) rfl
  | loadMatrix =>
    rcases execLoadMatrix_cases h with ⟨-, rfl⟩ | ⟨-, -, rfl⟩ | ⟨-, -, -, rfl⟩ | ⟨-, -, -, -, rfl⟩ |
      ⟨hempty, hvalid, -, -, rfl⟩
    · exact .kept rfl rfl
    · exact .kept rfl rfl
    · exact .kept rfl rfl
    · exact .kept rfl rfl
    · exact .installed (.inr rfl) hempty hvalid rfl rfl _ (Memory.readBytes_length ..) rfl
  | clearMatrix =>
    cases h
    exact .cleared rfl rfl rfl rfl
  | exportMatrix => exact kept (.inl rfl)
  | encode => exact kept (.inr (.inl rfl))
  | decode => exact kept (.inr (.inr rfl))

/-! ## What a step does to the matrix (40 R115, 70 R230) -/

/-- Everything a step can do to MRAM, MVALID and the dimensions of the matrix. -/
inductive MatrixChange (s t : State) : Prop where
  | kept (mram : t.mram = s.mram) (mvalid : t.mvalid = s.mvalid)
      (dimensions : s.mvalid = true → t.paramK = s.paramK ∧ t.paramM = s.paramM)
  | installed (inFlight : s.busy = true) (idle : t.busy = false) (turn : CoreIsNext s)
      (word : s.cmdw = 0x00000001 ∨ s.cmdw = 0x00000002) (empty : s.mvalid = false) (held : t.mvalid = true)
      (valid : ValidKM t.cfg t.k t.m)
  | cleared (inFlight : s.busy = true) (idle : t.busy = false) (turn : CoreIsNext s) (word : s.cmdw = 0x00000004)
      (empty : t.mvalid = false)
  | reset (next : s.inbox.head? = some .rst) (empty : t.mvalid = false)

/-- `ValidKM` is the same before and after a command. -/
theorem validKM_of_keptByCommand {s t : State} (h : KeptByCommand s t) (hv : ValidKM s.cfg s.k s.m) :
    ValidKM t.cfg t.k t.m := by
  have hk : t.k = s.k := congrArg BitVec.toNat h.paramK
  have hm : t.m = s.m := congrArg BitVec.toNat h.paramM
  rw [h.cfg, hk, hm]
  exact hv

/-- The Core's turn on a state that differs from `s` at most in its inbox. -/
theorem matrixChange_of_coreTurn {s t : State} (inbox : List Input) (turn : CoreIsNext s)
    (h : coreTurn { s with inbox := inbox } = .next t) : MatrixChange s t := by
  rcases coreTurn_cases h with ⟨-, rfl⟩ | ⟨hbusy, i, hi, he⟩ | ⟨-, -, rfl⟩
  · exact .kept rfl rfl fun _ => ⟨rfl, rfl⟩
  · have hword : s.cmdw = encodeWord i := eq_encodeWord_of_decodeWord hi
    have hkept := exec_keptByCommand he
    cases exec_matrixEffect he with
    | kept hmram hmvalid => exact .kept hmram hmvalid fun _ => ⟨hkept.paramK, hkept.paramM⟩
    | installed hcommand hempty hvalid hidle hheld bytes hlength hmram =>
      refine .installed hbusy hidle turn ?_ hempty hheld (validKM_of_keptByCommand hkept hvalid)
      exact hcommand.imp (fun hgen => by rw [hword, hgen]; rfl) fun hload => by rw [hword, hload]; rfl
    | cleared hcommand hidle hempty hmram =>
      exact .cleared hbusy hidle turn (by rw [hword, hcommand]; rfl) hempty
  · exact .kept rfl rfl fun _ => ⟨rfl, rfl⟩

/-- A write to a register keeps the dimensions of a held matrix: PARAM_K and PARAM_M are locked (10 R27, R28). -/
theorem writeReg_dimensions {s : State} (v : Word) (r : Reg) (hm : s.mvalid = true) :
    (s.writeReg v r).paramK = s.paramK ∧ (s.writeReg v r).paramM = s.paramM := by
  have locked (hempty : s.mvalid = false) : False := by simp [hm] at hempty
  rcases writeReg_cases s v r with h | ⟨-, h⟩ | ⟨-, -, h⟩ | ⟨-, h⟩ | ⟨-, h⟩ | ⟨-, hempty, -⟩ | ⟨-, hempty, -⟩ |
    ⟨-, h⟩ | ⟨-, h⟩
  iterate 5 rw [h]; exact ⟨rfl, rfl⟩
  iterate 2 exact (locked hempty).elim
  iterate 2 rw [h]; exact ⟨rfl, rfl⟩

/-- No host access changes the dimensions of a held matrix. -/
theorem hostAccess_dimensions {s : State} (a : Access) (hm : s.mvalid = true) :
    (s.hostAccess a).paramK = s.paramK ∧ (s.hostAccess a).paramM = s.paramM := by
  obtain ⟨u, x, d, he, hu⟩ := hostAccess_cases s a
  rw [he]
  rcases hu with rfl | ⟨-, rfl⟩ | ⟨-, -, rfl⟩ | ⟨v, r, off, -, -, -, rfl⟩ | ⟨-, off, w, v, -, rfl⟩ |
    ⟨-, off, w, v, -, rfl⟩
  iterate 3 exact ⟨rfl, rfl⟩
  · exact writeReg_dimensions v r hm
  iterate 2 exact ⟨rfl, rfl⟩

/-- Every step is one of these changes. -/
theorem matrixChange_of_step {s t : State} (h : step s = .next t) : MatrixChange s t := by
  rcases step_cases h with ⟨hin, hc⟩ | ⟨rest, hin, hc⟩ | ⟨a, rest, hin, rfl⟩ | ⟨rest, hin, rfl⟩ | ⟨b, rest, hin, rfl⟩
  · exact matrixChange_of_coreTurn s.inbox (.inl hin) hc
  · exact matrixChange_of_coreTurn rest (.inr (by rw [hin]; rfl)) hc
  · have huntouched := hostAccess_untouched { s with inbox := rest } a
    exact .kept huntouched.mram huntouched.mvalid (hostAccess_dimensions (s := { s with inbox := rest }) a)
  · exact .reset (by rw [hin]; rfl) rfl
  · exact .kept rfl rfl fun _ => ⟨rfl, rfl⟩

/-- A matrix held before and after a step is the same matrix with the same dimensions (40 R115). -/
theorem MatrixChange.held_kept {s t : State} (c : MatrixChange s t) (hs : s.mvalid = true) (ht : t.mvalid = true) :
    t.mram = s.mram ∧ t.paramK = s.paramK ∧ t.paramM = s.paramM := by
  cases c with
  | kept hmram hmvalid hdim => exact ⟨hmram, hdim hs⟩
  | installed _ _ _ _ hempty => simp [hs] at hempty
  | cleared _ _ _ _ hempty => simp [ht] at hempty
  | reset _ hempty => simp [ht] at hempty

/-- Settles O34: the cases of `MatrixEffect` for a command and of `MatrixChange` for a step. -/
theorem heldMatrixNeverChanges : Obligations.HeldMatrixNeverChanges := by
  unfold Obligations.HeldMatrixNeverChanges
  refine ⟨fun s t h => (matrixChange_of_step h).held_kept, fun i s t h hne => ?_, fun s t h hne => ?_⟩
  · cases exec_matrixEffect h with
    | kept hmram _ => exact absurd hmram hne
    | installed hcommand hempty _ _ hheld => exact .inr ⟨hcommand, hempty, hheld⟩
    | cleared hcommand => exact .inl hcommand
  · cases matrixChange_of_step h with
    | kept hmram _ _ => exact absurd hmram hne
    | installed hbusy hidle turn hword hempty hheld _ =>
      exact .inr ⟨hbusy, hidle, turn, .inr ⟨hword, hempty, hheld⟩⟩
    | cleared hbusy hidle turn hword _ => exact .inr ⟨hbusy, hidle, turn, .inl hword⟩
    | reset hnext _ => exact .inl hnext

end Sys2Proof.Machine

/-! PROOFS. The invariant of every state (Safety.lean): what a step makes of each store and of the completion fields,
and that it keeps the invariant. -/

namespace Sys2Proof.Machine

/-! ## What a step makes of a store (10 R36 to R40) -/

/-- What a step makes of a store of `capacity` bytes, `free` being the draws used after it. -/
inductive StoreChange (free capacity : Nat) (m : Memory) : Memory → Prop where
  | kept : StoreChange free capacity m m
  | written (a : Nat) (bytes : List Byte) (fits : a + bytes.length ≤ capacity) :
      StoreChange free capacity m (m.writeBytes a bytes)
  | filled (b : Byte) : StoreChange free capacity m (Memory.filled b)
  | unknown (draw : Nat) (used : draw < free) : StoreChange free capacity m (Memory.unknown draw)

/-- Every such change keeps a store in canonical form, inside its capacity, with a used draw. -/
theorem StoreChange.storeOk {s t : State} {capacity : Nat} {m m' : Memory} (c : StoreChange t.free capacity m m')
    (hfree : s.free ≤ t.free) (h : StoreOk s m capacity) : StoreOk t m' capacity := by
  have hused : DrawUsed t m := fun d hd => lt_of_lt_of_le (h.drawUsed d hd) hfree
  cases c with
  | kept => exact ⟨h.wf, h.within, hused⟩
  | written a bytes fits =>
    exact ⟨Memory.writeBytes_wf h.wf a bytes, Memory.writeBytes_within h.within a bytes fits,
      fun d hd => hused d (by rwa [Memory.writeBytes_fill] at hd)⟩
  | filled b => exact ⟨Memory.filled_wf b, Memory.filled_within b capacity, fun d hd => by cases hd⟩
  | unknown draw used =>
    exact ⟨Memory.unknown_wf draw, Memory.unknown_within draw capacity, fun d hd => by cases hd; exact used⟩

/-- What a step makes of the five stores. -/
structure StoresChange (s t : State) : Prop where
  free : s.free ≤ t.free
  mram : StoreChange t.free s.cfg.mramBytes s.mram t.mram
  wram : StoreChange t.free s.cfg.mramBytes s.wram t.wram
  ibuf : StoreChange t.free s.cfg.ibufBytes s.ibuf t.ibuf
  obuf : StoreChange t.free s.cfg.obufBytes s.obuf t.obuf
  blt : StoreChange t.free (4 * s.cfg.nMax) s.blt t.blt

/-- An equal store is a kept store. -/
theorem StoreChange.of_eq {free capacity : Nat} {m m' : Memory} (h : m' = m) : StoreChange free capacity m m' :=
  h ▸ .kept

/-- DECODE leaves a fresh draw in WRAM from its gate on (42 R171), and no other command works there. -/
theorem exec_wram {i : Instr} {s t : State} (h : exec i s = .next t) :
    ScratchKept s t ∨ (t.wram = Memory.unknown s.free ∧ t.free = s.free + 1) := by
  rcases exec_cases h with ⟨rfl, -⟩ | ⟨e, -, rfl, -⟩ | ⟨-, rfl⟩ | ⟨-, j, -, rfl⟩ | ⟨-, -, -, rfl⟩ | ⟨-, -, rfl⟩ |
    ⟨-, -, rfl⟩ | ⟨-, rfl⟩ | ⟨-, -, rfl⟩ | ⟨-, -, rfl⟩
  iterate 2 exact .inl ⟨rfl, rfl⟩
  iterate 3 exact .inr ⟨rfl, rfl⟩
  iterate 5 exact .inl ⟨rfl, rfl⟩

/-- The stores over a command. -/
theorem exec_storesChange {i : Instr} {s t : State} (h : exec i s = .next t) : StoresChange s t := by
  have hkept := exec_keptByCommand h
  have hmram : StoreChange t.free s.cfg.mramBytes s.mram t.mram := by
    cases exec_matrixEffect h with
    | kept hmram _ => exact .of_eq hmram
    | installed _ _ hvalid _ _ bytes hlength hmram =>
      obtain ⟨-, -, -, -, hfits⟩ := hvalid
      rw [hmram]
      exact .written 0 bytes (by omega)
    | cleared _ _ _ hmram =>
      rw [hmram]
      exact .filled 0
  have hobuf : StoreChange t.free s.cfg.obufBytes s.obuf t.obuf := by
    rcases exec_obuf h with hobuf | ⟨-, output, hout⟩
    · exact .of_eq hobuf
    · have hfits := hout.fits
      rw [hout.obuf]
      exact .written 0 output (by omega)
  rcases exec_wram h with hscratch | ⟨hwram, hfree⟩
  · exact ⟨hscratch.free.ge, hmram, .of_eq hscratch.wram, .of_eq hkept.ibuf, hobuf, .of_eq hkept.blt⟩
  · refine ⟨by omega, hmram, ?_, .of_eq hkept.ibuf, hobuf, .of_eq hkept.blt⟩
    rw [hwram]
    exact .unknown s.free (by omega)

/-- The stores over the Core's turn. -/
theorem coreTurn_storesChange {s t : State} (h : coreTurn s = .next t) : StoresChange s t := by
  rcases coreTurn_cases h with ⟨-, rfl⟩ | ⟨-, i, -, he⟩ | ⟨-, -, rfl⟩
  · exact ⟨le_rfl, .kept, .kept, .kept, .kept, .kept⟩
  · exact exec_storesChange he
  · exact ⟨le_rfl, .kept, .kept, .kept, .kept, .kept⟩

/-- A write to a register keeps the stores. -/
theorem writeReg_storesChange (s : State) (v : Word) (r : Reg) : StoresChange s (s.writeReg v r) := by
  rcases writeReg_cases s v r with h | ⟨-, h⟩ | ⟨-, -, h⟩ | ⟨-, h⟩ | ⟨-, h⟩ | ⟨-, -, h⟩ | ⟨-, -, h⟩ | ⟨-, h⟩ |
    ⟨-, h⟩ <;> rw [h] <;> exact ⟨le_rfl, .kept, .kept, .kept, .kept, .kept⟩

/-- The stores over a host access: IBUF and BLT are written inside their capacity (20 R61, R62). -/
theorem hostAccess_storesChange (s : State) (a : Access) : StoresChange s (s.hostAccess a) := by
  obtain ⟨u, x, d, he, hu⟩ := hostAccess_cases s a
  have answered (c : StoresChange s u) : StoresChange s (u.answer x d) :=
    ⟨c.free, c.mram, c.wram, c.ibuf, c.obuf, c.blt⟩
  rw [he]
  refine answered ?_
  rcases hu with rfl | ⟨-, rfl⟩ | ⟨-, -, rfl⟩ | ⟨v, r, off, -, -, -, rfl⟩ | ⟨-, off, w, v, ⟨-, -, hfits⟩, rfl⟩ |
    ⟨-, off, w, v, ⟨hw, -, hfits⟩, rfl⟩
  · exact ⟨le_rfl, .kept, .kept, .kept, .kept, .kept⟩
  · exact ⟨Nat.le_succ _, .kept, .kept, .kept, .kept, .kept⟩
  · exact ⟨le_rfl, .kept, .kept, .kept, .kept, .kept⟩
  · exact writeReg_storesChange s v r
  · exact ⟨le_rfl, .kept, .kept, .written _ _ (by simpa using hfits), .kept, .kept⟩
  · exact ⟨le_rfl, .kept, .kept, .kept, .kept, .written _ _ (by rw [bytesOfValue_length]; omega)⟩

/-- The stores after `rst` are five fresh draws (70 R230). -/
theorem restart_storesChange (s : State) : StoresChange s s.restart := by
  refine ⟨Nat.le_add_right _ _, .unknown _ ?_, .unknown _ ?_, .unknown _ ?_, .unknown _ ?_, .unknown _ ?_⟩ <;>
    rw [State.restart_free] <;> omega

/-- The inbox does not matter to the stores. -/
theorem StoresChange.of_inbox {s t : State} {inbox : List Input} (c : StoresChange { s with inbox := inbox } t) :
    StoresChange s t :=
  ⟨c.free, c.mram, c.wram, c.ibuf, c.obuf, c.blt⟩

/-- The stores over a step. -/
theorem step_storesChange {s t : State} (h : step s = .next t) : StoresChange s t := by
  rcases step_cases h with ⟨-, hc⟩ | ⟨rest, -, hc⟩ | ⟨a, rest, -, rfl⟩ | ⟨rest, -, rfl⟩ | ⟨b, rest, -, rfl⟩
  · exact coreTurn_storesChange hc
  · exact (coreTurn_storesChange hc).of_inbox
  · exact (hostAccess_storesChange _ a).of_inbox
  · exact (restart_storesChange _).of_inbox
  · exact ⟨le_rfl, .kept, .kept, .kept, .kept, .kept⟩

/-! ## The completion fields (60 R200) -/

/-- What the invariant says of BUSY, ERR, LAST_CMD and the result registers. -/
structure CompletionOk (s : State) : Prop where
  inFlight : s.busy = true → s.err = .noError ∧ s.lastCmd = opcField s.cmdw
  failIndex : s.busy = false → s.err ≠ .integrityFailure → s.failIndex = 0xFFFFFFFF
  errorLengths : s.busy = false → s.err ≠ .noError → s.outLen = 0 ∧ s.blkOut = 0
  outLen : s.outLen.toNat ≤ s.cfg.obufBytes

/-- An invariant state meets its part about the completion fields. -/
theorem completionOk_of_inv {s : State} (h : Inv s) : CompletionOk s :=
  ⟨h.inFlight, h.failIndex, h.errorLengths, h.outLen⟩

/-- A completion with no error whose output fits OBUF. -/
theorem completionOk_complete (s : State) {l : Nat} (b : Nat) (h : l ≤ s.cfg.obufBytes) :
    CompletionOk (s.complete l b) where
  inFlight hb := by simp at hb
  failIndex _ _ := rfl
  errorLengths _ he := absurd rfl he
  outLen := by
    rw [State.complete_outLen, BitVec.toNat_ofNat]
    exact (Nat.mod_le _ _).trans h

/-- A completion with an error, which has no output and names no block. -/
theorem completionOk_raise (s : State) (e : ErrCode) : CompletionOk (s.raise e) where
  inFlight hb := by simp at hb
  failIndex _ _ := rfl
  errorLengths _ _ := ⟨rfl, rfl⟩
  outLen := Nat.zero_le _

/-- IntegrityFailure has no output, and it alone names a block. -/
theorem completionOk_raiseAt (s : State) (i : Nat) : CompletionOk (s.raiseAt i) where
  inFlight hb := by simp at hb
  failIndex _ he := absurd rfl he
  errorLengths _ _ := ⟨rfl, rfl⟩
  outLen := Nat.zero_le _

/-- A command that waits keeps the completion fields, and every end of a command sets them. -/
theorem exec_completionOk {i : Instr} {s t : State} (h : exec i s = .next t) (hs : CompletionOk s) :
    CompletionOk t := by
  rcases exec_cases h with ⟨rfl, -⟩ | ⟨e, -, rfl, -⟩ | ⟨-, rfl⟩ | ⟨-, j, -, rfl⟩ | ⟨-, hfits, -, rfl⟩ |
    ⟨-, hfits, rfl⟩ | ⟨-, hfits, rfl⟩ | ⟨-, rfl⟩ | ⟨-, -, rfl⟩ | ⟨-, -, rfl⟩
  · exact hs
  · exact completionOk_raise s e
  · exact completionOk_raise _ _
  · exact completionOk_raiseAt _ j
  iterate 3 exact completionOk_complete _ _ hfits
  iterate 3 exact completionOk_complete _ _ (Nat.zero_le _)

/-- The completion fields over the Core's turn. -/
theorem coreTurn_completionOk {s t : State} (h : coreTurn s = .next t) (hs : CompletionOk s) : CompletionOk t := by
  rcases coreTurn_cases h with ⟨-, rfl⟩ | ⟨-, i, -, he⟩ | ⟨-, -, rfl⟩
  · exact hs
  · exact exec_completionOk he hs
  · exact completionOk_raise s _

/-- An accepted word stands in flight with no error and its opcode in LAST_CMD (10 R23). -/
theorem completionOk_accept {s : State} (w : Word) (hs : CompletionOk s) : CompletionOk (s.accept w) where
  inFlight _ := ⟨rfl, rfl⟩
  failIndex hb := by simp at hb
  errorLengths hb := by simp at hb
  outLen := hs.outLen

/-- A write to a register accepts a command or leaves the completion fields alone. -/
theorem writeReg_completionOk {s : State} (v : Word) (r : Reg) (hs : CompletionOk s) :
    CompletionOk (s.writeReg v r) := by
  rcases writeReg_cases s v r with h | ⟨-, h⟩ | ⟨-, -, h⟩ | ⟨-, h⟩ | ⟨-, h⟩ | ⟨-, -, h⟩ | ⟨-, -, h⟩ | ⟨-, h⟩ |
    ⟨-, h⟩ <;> rw [h]
  iterate 2 exact ⟨hs.inFlight, hs.failIndex, hs.errorLengths, hs.outLen⟩
  · exact completionOk_accept v hs
  iterate 6 exact ⟨hs.inFlight, hs.failIndex, hs.errorLengths, hs.outLen⟩

/-- The completion fields over a host access. -/
theorem hostAccess_completionOk {s : State} (a : Access) (hs : CompletionOk s) : CompletionOk (s.hostAccess a) := by
  obtain ⟨u, x, d, he, hu⟩ := hostAccess_cases s a
  have answered (c : CompletionOk u) : CompletionOk (u.answer x d) :=
    ⟨c.inFlight, c.failIndex, c.errorLengths, c.outLen⟩
  rw [he]
  refine answered ?_
  rcases hu with rfl | ⟨-, rfl⟩ | ⟨-, -, rfl⟩ | ⟨v, r, off, -, -, -, rfl⟩ | ⟨-, off, w, v, -, rfl⟩ |
    ⟨-, off, w, v, -, rfl⟩
  iterate 3 exact ⟨hs.inFlight, hs.failIndex, hs.errorLengths, hs.outLen⟩
  · exact writeReg_completionOk v r hs
  iterate 2 exact ⟨hs.inFlight, hs.failIndex, hs.errorLengths, hs.outLen⟩

/-- The completion fields after `rst` (70 R230). -/
theorem completionOk_restart (s : State) : CompletionOk s.restart where
  inFlight hb := by cases hb
  failIndex _ _ := rfl
  errorLengths _ _ := ⟨rfl, rfl⟩
  outLen := Nat.zero_le _

/-- The inbox does not matter to the completion fields. -/
theorem CompletionOk.withInbox {s : State} (hs : CompletionOk s) (inbox : List Input) :
    CompletionOk { s with inbox := inbox } :=
  ⟨hs.inFlight, hs.failIndex, hs.errorLengths, hs.outLen⟩

/-- The completion fields over a step. -/
theorem step_completionOk {s t : State} (h : step s = .next t) (hs : CompletionOk s) : CompletionOk t := by
  rcases step_cases h with ⟨-, hc⟩ | ⟨rest, -, hc⟩ | ⟨a, rest, -, rfl⟩ | ⟨rest, -, rfl⟩ | ⟨b, rest, -, rfl⟩
  · exact coreTurn_completionOk hc hs
  · exact coreTurn_completionOk hc (hs.withInbox rest)
  · exact hostAccess_completionOk a (hs.withInbox rest)
  · exact completionOk_restart _
  · exact ⟨hs.inFlight, hs.failIndex, hs.errorLengths, hs.outLen⟩

/-! ## The invariant -/

/-- A matrix held after a step has valid dimensions: it was held before, or GEN_MATRIX or LOAD_MATRIX has just checked
them (40 R110). -/
theorem step_held {s t : State} (h : step s = .next t) (hs : s.mvalid = true → ValidKM s.cfg s.k s.m)
    (ht : t.mvalid = true) : ValidKM t.cfg t.k t.m := by
  cases matrixChange_of_step h with
  | kept _ hmvalid hdim =>
    have hheld : s.mvalid = true := hmvalid ▸ ht
    obtain ⟨hk, hm⟩ := hdim hheld
    rw [step_cfg h, State.k, State.m, hk, hm]
    exact hs hheld
  | installed _ _ _ _ _ _ hvalid => exact hvalid
  | cleared _ _ _ _ hempty => simp [ht] at hempty
  | reset _ hempty => simp [ht] at hempty

/-- Settles O59: the parameters, the dimensions, each store and the completion fields, one lemma over a step for each. -/
theorem invariantKept : Obligations.InvariantKept := by
  unfold Obligations.InvariantKept
  intro s t hs h
  have hcfg := step_cfg h
  have hstores := step_storesChange h
  have hdone := step_completionOk h (completionOk_of_inv hs)
  have storeOk {c : Nat} {m m' : Memory} (hc : StoreChange t.free c m m') (hm : StoreOk s m c) : StoreOk t m' c :=
    hc.storeOk hstores.free hm
  exact
    { config := hcfg ▸ hs.config
      held := step_held h hs.held
      mramOk := hcfg ▸ storeOk hstores.mram hs.mramOk
      wramOk := hcfg ▸ storeOk hstores.wram hs.wramOk
      ibufOk := hcfg ▸ storeOk hstores.ibuf hs.ibufOk
      obufOk := hcfg ▸ storeOk hstores.obuf hs.obufOk
      bltOk := hcfg ▸ storeOk hstores.blt hs.bltOk
      inFlight := hdone.inFlight
      failIndex := hdone.failIndex
      errorLengths := hdone.errorLengths
      outLen := hdone.outLen }

end Sys2Proof.Machine

/-! PROOFS. The statements about the matrix commands one by one (spec 40 R111 to R114): each command's errors in their
order, and what each writes where on success. -/

namespace Sys2Proof.Machine

/-! ## Completions -/

/-- An error has no effect beyond the completion fields (60 R200). -/
theorem raisedOnly_raise (s : State) {e : ErrCode} (he : e ≠ .noError) : RaisedOnly s (s.raise e) e where
  ended := ⟨rfl, rfl, rfl, rfl, rfl, by rw [State.raise_intStatus, completionBits, if_neg he, if_neg he]; rfl⟩
  kept := by constructor <;> rfl
  outputs := by constructor <;> rfl
  scratch := by constructor <;> rfl

/-- A command that raises an error has ended with it and done nothing else. -/
theorem exists_raisedOnly {i : Instr} {s : State} {e : ErrCode} (h : exec i s = .next (s.raise e))
    (he : e ≠ .noError) : ∃ t, exec i s = .next t ∧ RaisedOnly s t e :=
  ⟨s.raise e, h, raisedOnly_raise s he⟩

/-- A completion with code 0 of a state `u` that has the pending bits of `s`. -/
theorem endedWith_complete {s u : State} {l b : Nat} (hu : u.intStatus = s.intStatus) (hl : l < 2 ^ 32)
    (hb : b < 2 ^ 32) : EndedWith s (u.complete l b) .noError l b 0xFFFFFFFF where
  err := rfl
  busy := rfl
  outLen := by rw [State.complete_outLen, BitVec.toNat_ofNat, Nat.mod_eq_of_lt hl]
  blkOut := by rw [State.complete_blkOut, BitVec.toNat_ofNat, Nat.mod_eq_of_lt hb]
  failIndex := rfl
  intStatus := by rw [State.complete_intStatus, hu]; rfl

/-! ## Matrices in transport order (20 R74) -/

/-- A byte of a string written from address 0 on. -/
theorem read_writeBytes_zero {m : Memory} (hm : m.wf) {bytes : List Byte} {a : Nat} (ha : a < bytes.length) :
    (m.writeBytes 0 bytes).read a = bytes[a] := by
  simpa using Memory.read_writeBytes_inside hm 0 bytes ha

/-- A copy of the first `n` bytes of another store reads as that store. -/
theorem read_writeBytes_readBytes {m : Memory} (hm : m.wf) (m' : Memory) {n a : Nat} (ha : a < n) :
    (m.writeBytes 0 (m'.readBytes 0 n)).read a = m'.read a := by
  rw [read_writeBytes_zero hm (by simpa using ha), Memory.readBytes_getElem, Nat.zero_add]

section

variable {s : State}

/-! ## GEN_MATRIX (40 R111) -/

theorem execGenMatrix_of_held (hm : s.mvalid = true) : exec .genMatrix s = .next (s.raise .matrixLocked) :=
  if_pos hm

theorem execGenMatrix_of_invalid (hm : s.mvalid = false) (hv : ¬ ValidKM s.cfg s.k s.m) :
    exec .genMatrix s = .next (s.raise .invalidParameters) := by
  simp only [exec, execGenMatrix, hm, hv, Bool.false_eq_true, not_false_eq_true, if_true, if_false]

/-- GEN_MATRIX with its bytes supplied takes them from the queue and installs them. -/
theorem execGenMatrix_of_supplied (hm : s.mvalid = false) (hv : ValidKM s.cfg s.k s.m)
    (he : s.k * s.m ≤ s.entropy.length) :
    exec .genMatrix s =
      .next (((s.installMatrix (s.entropy.take (s.k * s.m))).takeEntropy (s.k * s.m)).complete 0 0) := by
  simp only [exec, execGenMatrix, hm, not_not.2 hv, not_lt.2 he, Bool.false_eq_true, if_false]

/-! ## LOAD_MATRIX (40 R112) -/

theorem execLoadMatrix_of_held (hm : s.mvalid = true) : exec .loadMatrix s = .next (s.raise .matrixLocked) :=
  if_pos hm

theorem execLoadMatrix_of_invalid (hm : s.mvalid = false) (hv : ¬ ValidKM s.cfg s.k s.m) :
    exec .loadMatrix s = .next (s.raise .invalidParameters) := by
  simp only [exec, execLoadMatrix, hm, hv, Bool.false_eq_true, not_false_eq_true, if_true, if_false]

theorem execLoadMatrix_of_tooLong (hm : s.mvalid = false) (hv : ValidKM s.cfg s.k s.m)
    (hlen : s.cfg.ibufBytes < s.len) : exec .loadMatrix s = .next (s.raise .capacityExceeded) := by
  simp only [exec, execLoadMatrix, hm, not_not.2 hv, hlen, Bool.false_eq_true, if_true, if_false]

theorem execLoadMatrix_of_wrongSize (hm : s.mvalid = false) (hv : ValidKM s.cfg s.k s.m)
    (hlen : s.len ≤ s.cfg.ibufBytes) (hsize : s.len ≠ s.k * s.m) :
    exec .loadMatrix s = .next (s.raise .invalidBlockSize) := by
  simp only [exec, execLoadMatrix, hm, not_not.2 hv, not_lt.2 hlen, hsize, Bool.false_eq_true, ne_eq,
    not_false_eq_true, if_true, if_false]

/-- LOAD_MATRIX whose checks pass installs the first `k*m` bytes of IBUF. -/
theorem execLoadMatrix_of_fits (hm : s.mvalid = false) (hv : ValidKM s.cfg s.k s.m) (hlen : s.len ≤ s.cfg.ibufBytes)
    (hsize : s.len = s.k * s.m) :
    exec .loadMatrix s = .next ((s.installMatrix (s.ibuf.readBytes 0 (s.k * s.m))).complete 0 0) := by
  simp only [exec, execLoadMatrix, hm, not_not.2 hv, not_lt.2 hlen, not_not.2 hsize, Bool.false_eq_true, if_false]

/-! ## EXPORT_MATRIX (40 R113) -/

theorem execExportMatrix_of_tooLong (hm : s.mvalid = true) (hlen : s.cfg.obufBytes < s.k * s.m) :
    exec .exportMatrix s = .next (s.raise .capacityExceeded) := by
  simp only [exec, execExportMatrix, hm, hlen, Bool.true_eq_false, if_true, if_false]

/-- EXPORT_MATRIX of a matrix that fits OBUF copies it there. -/
theorem execExportMatrix_of_fits (hm : s.mvalid = true) (hlen : s.k * s.m ≤ s.cfg.obufBytes) :
    exec .exportMatrix s =
      .next ({ s with obuf := s.obuf.writeBytes 0 s.matrixBytes }.complete (s.k * s.m) 0) := by
  simp only [exec, execExportMatrix, hm, not_lt.2 hlen, Bool.true_eq_false, if_false]

end

/-! ## The statements -/

/-- Settles O26: entry `(i, j)` is byte `i*m + j` of the drawn string, and the rest is the frame of a command. -/
theorem genMatrixInstallsDraw : Obligations.GenMatrixInstallsDraw := by
  unfold Obligations.GenMatrixInstallsDraw
  intro s hm hv he hwf
  have h := execGenMatrix_of_supplied hm hv he
  have hlen : (s.entropy.take (s.k * s.m)).length = s.k * s.m := by simpa using he
  refine ⟨_, h, endedWith_complete rfl (by decide) (by decide), exec_keptByCommand h, ⟨rfl, rfl⟩, rfl, rfl, rfl,
    fun i hi j hj => ?_, fun a ha => ?_⟩
  · have ha := blockByte_lt hi hj
    have hread := read_writeBytes_zero hwf (hlen.symm ▸ ha)
    rw [List.getElem_take] at hread
    rw [List.getElem?_eq_getElem (by omega)]
    exact congrArg some hread
  · exact Memory.read_writeBytes_outside _ _ _ (.inr (by omega))

/-- Settles O27: the two checks of GEN_MATRIX in their order. -/
theorem genMatrixErrors : Obligations.GenMatrixErrors := by
  unfold Obligations.GenMatrixErrors
  exact fun s => ⟨fun hm => exists_raisedOnly (execGenMatrix_of_held hm) (by decide),
    fun hm hv => exists_raisedOnly (execGenMatrix_of_invalid hm hv) (by decide)⟩

/-- Settles O29: MRAM becomes a copy of the first `k*m` bytes of IBUF, and the rest is the frame of a command. -/
theorem loadMatrixInstallsInput : Obligations.LoadMatrixInstallsInput := by
  unfold Obligations.LoadMatrixInstallsInput
  intro s hm hv hlen hsize hwf
  have h := execLoadMatrix_of_fits hm hv hlen hsize
  refine ⟨_, h, endedWith_complete rfl (by decide) (by decide), exec_keptByCommand h, ⟨rfl, rfl⟩, rfl, rfl, rfl,
    fun i hi j hj => ?_, fun a ha => ?_⟩
  · exact read_writeBytes_readBytes hwf s.ibuf (blockByte_lt hi hj)
  · exact Memory.read_writeBytes_outside _ _ _ (.inr (by simpa using ha))

/-- Settles O30: the four checks of LOAD_MATRIX in their order. -/
theorem loadMatrixErrors : Obligations.LoadMatrixErrors := by
  unfold Obligations.LoadMatrixErrors
  exact fun s => ⟨fun hm => exists_raisedOnly (execLoadMatrix_of_held hm) (by decide),
    fun hm hv => exists_raisedOnly (execLoadMatrix_of_invalid hm hv) (by decide),
    fun hm hv hlen => exists_raisedOnly (execLoadMatrix_of_tooLong hm hv hlen) (by decide),
    fun hm hv hlen hsize => exists_raisedOnly (execLoadMatrix_of_wrongSize hm hv hlen hsize) (by decide)⟩

/-- Settles O31: the two checks of EXPORT_MATRIX, then OBUF becomes a copy of the first `k*m` bytes of MRAM. -/
theorem exportMatrixCopies : Obligations.ExportMatrixCopies := by
  unfold Obligations.ExportMatrixCopies
  refine fun s => ⟨fun hm => exists_raisedOnly (exec_noMatrix hm (.inl rfl)) (by decide),
    fun hm hlen => exists_raisedOnly (execExportMatrix_of_tooLong hm hlen) (by decide), fun hm hlen hc hwf => ?_⟩
  have h := execExportMatrix_of_fits hm hlen
  have hword : s.k * s.m < 2 ^ 32 := by
    have := hc.obufBytes_le
    omega
  refine ⟨_, h, endedWith_complete rfl hword (by decide), exec_keptByCommand h, ⟨rfl, rfl⟩, rfl, hm, rfl,
    fun i hi j hj => ?_, fun a ha => ?_⟩
  · exact read_writeBytes_readBytes hwf s.mram (blockByte_lt hi hj)
  · exact Memory.read_writeBytes_outside _ _ _ (.inr (by simpa using ha))

/-- Settles O32: the one thing CLEAR_MATRIX does leaves no matrix and no command in flight, so the readers of the matrix
raise NoMatrix and neither lock of PARAM_K and PARAM_M holds. -/
theorem clearMatrixEndsInstance : Obligations.ClearMatrixEndsInstance := by
  unfold Obligations.ClearMatrixEndsInstance
  intro s
  have h := execClearMatrix_eq s
  refine ⟨_, h, endedWith_complete rfl (by decide) (by decide), exec_keptByCommand h, ⟨rfl, rfl⟩, rfl, fun _ => rfl,
    rfl, rfl, fun i hi => exists_raisedOnly (exec_noMatrix rfl hi) (by decide), fun v => ?_⟩
  obtain ⟨-, -, stored, -⟩ := parameterRegisters ({ s with mram := Memory.filled 0, mvalid := false }.complete 0 0) v
  obtain ⟨hk, hm⟩ := stored rfl rfl
  exact ⟨congrArg State.paramK hk, congrArg State.paramM hm⟩

/-- Settles O33: OBUF of the exporting block and MRAM of the loading block are both copies of the same `k*m` bytes. -/
theorem exportThenLoadTransfers : Obligations.ExportThenLoadTransfers := by
  unfold Obligations.ExportThenLoadTransfers
  intro s t u hexport herr hswf hum hk hm hv hsize hlen huwf hcopy
  have hkm : u.k * u.m = s.k * s.m := by rw [State.k, State.m, hk, hm]; rfl
  have hexported : ∀ a < s.k * s.m, t.obuf.read a = s.mram.read a := by
    rcases execExportMatrix_cases hexport with ⟨-, rfl⟩ | ⟨-, -, rfl⟩ | ⟨-, -, rfl⟩
    · cases herr
    · cases herr
    · exact fun a ha => read_writeBytes_readBytes hswf s.mram ha
  refine ⟨_, execLoadMatrix_of_fits hum hv hlen hsize, rfl, rfl, State.matrix_congr hk hm fun a ha => ?_⟩
  calc (u.mram.writeBytes 0 (u.ibuf.readBytes 0 (u.k * u.m))).read a
      = u.ibuf.read a := read_writeBytes_readBytes huwf u.ibuf (hkm.symm ▸ ha)
    _ = t.obuf.read a := hcopy a ha
    _ = s.mram.read a := hexported a ha

end Sys2Proof.Machine

/-! PROOFS. The statements about ENCODE (spec 41): the parity and the frame of one Data Segment, what ENCODE writes where,
its errors in their order, and that it depends on its inputs alone. -/

namespace Sys2Proof.Machine

/-! ## One Data Segment (41 R140, R141) -/

/-- A parity byte is the exact sum of its lane, reduced modulo 256. -/
theorem parityByte_toNat {data : List Byte} {rows : List (List Byte)} (h : data.length = rows.length) (j : Nat) :
    (BitVec.ofNat 8 (laneSum data rows j % 256)).toNat =
      (∑ i ∈ Finset.range data.length, (data.getD i 0).toNat * ((rows.getD i []).getD j 0).toNat) % 256 := by
  rw [BitVec.toNat_ofNat, laneSum_eq_sum _ _ _ h]
  exact Nat.mod_mod _ _

/-- Settles O35: byte `j` of the parity is the sum of lane `j`. -/
theorem parityFormula : Obligations.ParityFormula := by
  unfold Obligations.ParityFormula
  refine fun m data rows h => ⟨parity_length m data rows, fun j hj => ?_⟩
  rw [List.getElem?_eq_getElem (by simpa using hj), parity_getElem]
  exact congrArg some (parityByte_toNat h j)

/-- Settles O36: a Framed Block is the two strings one after the other. -/
theorem frameIsSystematic : Obligations.FrameIsSystematic := by
  unfold Obligations.FrameIsSystematic
  exact fun m data rows => ⟨frame_length m data rows, List.take_left, List.drop_left⟩

/-! ## ENCODE's branches (41 R142) -/

section

variable {s : State}

theorem execEncode_of_inputTooLong (hm : s.mvalid = true) (hlen : s.cfg.ibufBytes < s.len) :
    exec .encode s = .next (s.raise .capacityExceeded) := by
  simp only [exec, execEncode, hm, hlen, Bool.true_eq_false, if_true, if_false]

theorem execEncode_of_partialSegment (hm : s.mvalid = true) (hlen : s.len ≤ s.cfg.ibufBytes)
    (hmod : s.len % s.k ≠ 0) : exec .encode s = .next (s.raise .invalidBlockSize) := by
  simp only [exec, execEncode, hm, not_lt.2 hlen, hmod, Bool.true_eq_false, ne_eq, not_false_eq_true, if_true,
    if_false]

theorem execEncode_of_outputTooLong (hm : s.mvalid = true) (hlen : s.len ≤ s.cfg.ibufBytes)
    (hmod : s.len % s.k = 0) (hout : s.cfg.obufBytes < s.len / s.k * (s.k + s.m)) :
    exec .encode s = .next (s.raise .capacityExceeded) := by
  simp only [exec, execEncode, hm, not_lt.2 hlen, not_not.2 hmod, hout, Bool.true_eq_false, if_true, if_false]

/-- ENCODE whose checks pass writes the Framed Blocks of its segments from `OBUF[0]` on. -/
theorem execEncode_of_fits (hm : s.mvalid = true) (hlen : s.len ≤ s.cfg.ibufBytes) (hmod : s.len % s.k = 0)
    (hout : s.len / s.k * (s.k + s.m) ≤ s.cfg.obufBytes) :
    exec .encode s = .next ({ s with obuf := s.obuf.writeBytes 0 (s.encodedBlocks (s.len / s.k)) }.complete
      (s.len / s.k * (s.k + s.m)) (s.len / s.k)) := by
  simp only [exec, execEncode, hm, not_lt.2 hlen, not_not.2 hmod, not_lt.2 hout, Bool.true_eq_false, if_false]

end

/-- Settles O38: the four checks of ENCODE in their order. -/
theorem encodeErrors : Obligations.EncodeErrors := by
  unfold Obligations.EncodeErrors
  exact fun s => ⟨fun hm => exists_raisedOnly (exec_noMatrix hm (.inr (.inl rfl))) (by decide),
    fun hm hlen => exists_raisedOnly (execEncode_of_inputTooLong hm hlen) (by decide),
    fun hm hlen hmod => exists_raisedOnly (execEncode_of_partialSegment hm hlen hmod) (by decide),
    fun hm hlen hmod hout => exists_raisedOnly (execEncode_of_outputTooLong hm hlen hmod hout) (by decide)⟩

/-! ## ENCODE's output (20 R71) -/

/-- The bytes of a Data Segment are bytes of IBUF. -/
theorem State.segment_getD (s : State) (i : Nat) {x : Nat} (hx : x < s.k) :
    (s.segment i).getD x 0 = s.ibuf.read (i * s.k + x) := by
  rw [List.getD_eq_getElem _ _ (by simpa using hx)]
  exact Memory.readBytes_getElem ..

/-- The parity of a Data Segment, from the bytes of IBUF and MRAM. -/
theorem State.segmentParityByte_toNat (s : State) (i : Nat) {j : Nat} (hj : j < s.m) :
    (BitVec.ofNat 8 (laneSum (s.segment i) s.matrix j % 256)).toNat =
      (∑ x ∈ Finset.range s.k, (s.ibuf.read (i * s.k + x)).toNat * (s.mram.read (x * s.m + j)).toNat) % 256 := by
  rw [parityByte_toNat (by simp), State.segment_length]
  refine congrArg (· % 256) (Finset.sum_congr rfl fun x hx => ?_)
  have hx := Finset.mem_range.1 hx
  rw [State.segment_getD s i hx, State.matrix_entry s hx hj]

/-- A byte of a string written from address 0 on, by the string's entry at its address. -/
theorem read_writeBytes_of_getElem? {m : Memory} (hm : m.wf) {bytes : List Byte} {a : Nat} {b : Byte}
    (h : bytes[a]? = some b) : (m.writeBytes 0 bytes).read a = b := by
  obtain ⟨ha, rfl⟩ := List.getElem?_eq_some_iff.1 h
  exact read_writeBytes_zero hm ha

/-- Settles O37: a byte of OBUF is the byte of the Framed Blocks at its place, and the rest is the frame of a command. -/
theorem encodeWritesFrames : Obligations.EncodeWritesFrames := by
  unfold Obligations.EncodeWritesFrames
  intro s n hm hlen hmod hout hc hwf
  have h := execEncode_of_fits hm hlen hmod hout
  have hword : n * (s.k + s.m) < 2 ^ 32 := by
    have := hc.obufBytes_le
    omega
  have hcount : n < 2 ^ 32 := lt_of_le_of_lt (Nat.div_le_self ..) s.inLen.isLt
  refine ⟨_, h, endedWith_complete rfl hword hcount, exec_keptByCommand h, ⟨rfl, rfl⟩, rfl, hm, rfl,
    fun i hi x hx => ?_, fun i hi j hj => ?_, fun a ha => ?_⟩
  · exact read_writeBytes_of_getElem? hwf (s.encodedBlocks_data hi hx)
  · exact (congrArg BitVec.toNat (read_writeBytes_of_getElem? hwf (s.encodedBlocks_parity hi hj))).trans
      (s.segmentParityByte_toNat i hj)
  · exact Memory.read_writeBytes_outside _ _ _ (.inr (by simpa using ha))

/-! ## What ENCODE reads (20 R70)

The result of a command is compared as for DECODE above: by `SameDecodeResult` and `SameDecodeOutcome`, whose fields are
the completion fields and the output bytes of any command. -/

/-- Two states agree on everything ENCODE may read (20 R70). -/
structure SameEncodeInputs (s u : State) : Prop where
  cfg : u.cfg = s.cfg
  mvalid : u.mvalid = s.mvalid
  paramK : u.paramK = s.paramK
  paramM : u.paramM = s.paramM
  inLen : u.inLen = s.inLen
  mram : ∀ a < s.k * s.m, u.mram.read a = s.mram.read a
  ibuf : ∀ a < s.len, u.ibuf.read a = s.ibuf.read a

/-- The same output, written whole from OBUF's address 0 on, leaves the same result. -/
theorem sameDecodeResult_complete {p q : State} {o o' : Memory} (ho : o.wf) (ho' : o'.wf) {output : List Byte}
    (hp : p.obuf = o.writeBytes 0 output) (hq : q.obuf = o'.writeBytes 0 output) {l : Nat}
    (hl : output.length = l) (blocks : Nat) : SameDecodeResult (p.complete l blocks) (q.complete l blocks) := by
  refine ⟨rfl, rfl, rfl, rfl, fun a ha => ?_⟩
  have hlt : a < output.length := hl ▸ lt_of_lt_of_le ha (Nat.mod_le ..)
  rw [State.complete_obuf, State.complete_obuf, hp, hq, read_writeBytes_zero ho hlt, read_writeBytes_zero ho' hlt]

namespace SameEncodeInputs

variable {s u : State} (h : SameEncodeInputs s u)

include h

theorem k : u.k = s.k := congrArg BitVec.toNat h.paramK

theorem m : u.m = s.m := congrArg BitVec.toNat h.paramM

theorem len : u.len = s.len := congrArg BitVec.toNat h.inLen

theorem matrix : u.matrix = s.matrix := State.matrix_congr h.paramK h.paramM h.mram

/-- The whole segments of the input lie among its IN_LEN bytes. -/
theorem segment {i : Nat} (hi : i < s.len / s.k) : u.segment i = s.segment i := by
  simp only [State.segment, h.k]
  exact Memory.readBytes_congr fun t ht =>
    h.ibuf _ (lt_of_lt_of_le (blockByte_lt hi ht) (Nat.div_mul_le_self ..))

theorem encodedBlocks : u.encodedBlocks (s.len / s.k) = s.encodedBlocks (s.len / s.k) := by
  simp only [State.encodedBlocks, h.m, h.matrix]
  exact flatMap_range_congr fun i hi => by rw [h.segment hi]

/-- ENCODE ends with the same result: both runs take the same branch of every check. -/
theorem exec_outcome (hs : s.obuf.wf) (hu : u.obuf.wf) :
    SameDecodeOutcome (exec .encode s) (exec .encode u) := by
  have raised (e : ErrCode) : SameDecodeOutcome (.next (s.raise e)) (.next (u.raise e)) :=
    (sameDecodeResult_raise s u e).outcome
  simp only [exec, execEncode, h.mvalid, h.cfg, h.len, h.k, h.m, h.encodedBlocks]
  refine .ite (fun _ => raised _) fun _ => .ite (fun _ => raised _) fun _ => .ite (fun _ => raised _) fun _ =>
    .ite (fun _ => raised _) fun _ => ?_
  exact (sameDecodeResult_complete hs hu rfl rfl (s.encodedBlocks_length _) _).outcome

end SameEncodeInputs

/-- Settles O39: the two runs take the same branch of every check and write the same Framed Blocks. -/
theorem encodeReadsOnlyItsInputs : Obligations.EncodeReadsOnlyItsInputs := by
  unfold Obligations.EncodeReadsOnlyItsInputs
  intro s u t v hcfg hmv hk hm hlen hmram hibuf hs hu ht hv
  have hin : SameEncodeInputs s u := ⟨hcfg, hmv, hk, hm, hlen, hmram, hibuf⟩
  obtain ⟨herr, hout, hblk, hfail, hbytes⟩ := hin.exec_outcome hs hu t v ht hv
  exact ⟨herr, hout, hblk, hfail, hbytes⟩

end Sys2Proof.Machine

/-! PROOFS. The statements about the invertibility gate (spec 42 R161 to R163): the elimination with odd pivots keeps
whether the determinant modulo 256 is a unit, and a unit determinant is the same as an inverse and as an odd integer
determinant. -/

namespace Sys2Proof.Machine

/-! ## Units of the bytes -/

theorem two_dvd_byte {b : Byte} (h : b.getLsbD 0 = false) : 2 ∣ b := by
  have hhalf : b = 2 * (b >>> 1) := by revert b; decide
  exact ⟨_, hhalf⟩

/-- A multiple of 2 is no unit: its low bit stays 0 in every product. -/
theorem not_isUnit_of_two_dvd {b : Byte} (h : 2 ∣ b) : ¬ IsUnit b := by
  intro hu
  obtain ⟨c, hc⟩ := h.trans (isUnit_iff_dvd_one.1 hu)
  revert c
  decide

/-- The units of the bytes are the odd bytes. -/
theorem isUnit_byte_iff {b : Byte} : IsUnit b ↔ b.getLsbD 0 = true := by
  refine ⟨fun h => ?_, fun h => IsUnit.of_mul_eq_one _ (oddInverse_mul h)⟩
  by_contra hodd
  exact not_isUnit_of_two_dvd (two_dvd_byte (by simpa using hodd)) h

theorem isUnit_intCast_byte {z : ℤ} : IsUnit (z : Byte) ↔ Odd z := by
  rcases Int.even_or_odd z with hz | hz
  · have hdvd : (2 : Byte) ∣ (z : Byte) := map_dvd (Int.castRingHom Byte) hz.two_dvd
    exact iff_of_false (not_isUnit_of_two_dvd hdvd) (Int.not_odd_iff_even.2 hz)
  · obtain ⟨w, rfl⟩ := hz
    have hodd : ∀ x : Byte, (2 * x + 1).getLsbD 0 = true := by decide
    have hcast : ((2 * w + 1 : ℤ) : Byte) = 2 * (w : Byte) + 1 := by push_cast; rfl
    exact iff_of_true (isUnit_byte_iff.2 (hcast ▸ hodd w)) ⟨w, rfl⟩

/-! ## What invertibility is -/

theorem invertible256_iff_isUnit_det (k : Nat) (rows : List (List Byte)) :
    Invertible256 k rows ↔ IsUnit (byteMatrix k rows).det :=
  ⟨fun ⟨_, hb⟩ => Matrix.isUnit_det_of_right_inverse hb, fun h => ⟨_, Matrix.mul_nonsing_inv _ h⟩⟩

/-! ## One column of the elimination -/

/-- Without an odd leading entry the determinant is even. -/
theorem two_dvd_det_of_splitPivot_none {k : Nat} {rows : List (List Byte)} (hn : rows.length = k + 1)
    (h : splitPivot rows = none) : 2 ∣ (byteMatrix (k + 1) rows).det := by
  rw [Matrix.det_succ_column_zero]
  refine Finset.dvd_sum fun i _ => Dvd.dvd.mul_right (Dvd.dvd.mul_left (two_dvd_byte ?_) _) _
  have hlt : (i : Nat) < rows.length := by omega
  have heven := splitPivot_none h rows[i] (by simp)
  simpa [byteMatrix, List.getD, hlt, List.head?_eq_getElem?, List.headD_eq_head?_getD] using heven

/-- A matrix after one column of the elimination, the pivot row kept and the first column not yet dropped. -/
def clearedMatrix {k : Nat} (a : Matrix (Fin (k + 1)) (Fin (k + 1)) Byte) (p : Fin (k + 1)) :
    Matrix (Fin (k + 1)) (Fin (k + 1)) Byte :=
  fun i j => if i = p then a p j else a i j - a i 0 * oddInverse (a p 0) * a p j

theorem det_clearedMatrix {k : Nat} (a : Matrix (Fin (k + 1)) (Fin (k + 1)) Byte) (p : Fin (k + 1)) :
    a.det = (clearedMatrix a p).det := by
  refine Matrix.det_eq_of_forall_row_eq_smul_add_const
    (fun i => if i = p then 0 else a i 0 * oddInverse (a p 0)) p (if_pos rfl) fun i j => ?_
  by_cases hi : i = p <;> simp [clearedMatrix, hi]

theorem clearedMatrix_column_zero {k : Nat} {a : Matrix (Fin (k + 1)) (Fin (k + 1)) Byte} {p : Fin (k + 1)}
    (hp : (a p 0).getLsbD 0 = true) {i : Fin (k + 1)} (hi : i ≠ p) : clearedMatrix a p i 0 = 0 := by
  rw [clearedMatrix, if_neg hi, mul_assoc, mul_comm (oddInverse _), oddInverse_mul hp, mul_one, sub_self]

/-- Clearing a column with an odd pivot. -/
theorem det_eq_pivot_mul {k : Nat} {a : Matrix (Fin (k + 1)) (Fin (k + 1)) Byte} {p : Fin (k + 1)}
    (hp : (a p 0).getLsbD 0 = true) :
    a.det = (-1) ^ (p : Nat) * a p 0 * ((clearedMatrix a p).submatrix p.succAbove Fin.succ).det := by
  rw [det_clearedMatrix a p, Matrix.det_succ_column_zero, Finset.sum_eq_single p]
  · rw [clearedMatrix, if_pos rfl]
  · intro i _ hi
    rw [clearedMatrix_column_zero hp hi, mul_zero, zero_mul]
  · simp

/-- An entry of a cleared row, read as `byteMatrix` reads it. -/
theorem clearColumn_getD {pivot row : List Byte} {j : Nat} (hr : j + 1 < row.length) (hp : j + 1 < pivot.length) :
    (clearColumn pivot row).getD j 0 =
      row.getD (j + 1) 0 - row.getD 0 0 * oddInverse (pivot.getD 0 0) * pivot.getD (j + 1) 0 := by
  have hlt : j < (clearColumn pivot row).length := by
    rw [clearColumn_length]
    omega
  rw [List.getD_eq_getElem _ _ hlt, List.getD_eq_getElem _ _ hr, List.getD_eq_getElem _ _ hp,
    List.getD_eq_getElem row 0 (by omega), List.getD_eq_getElem pivot 0 (by omega)]
  exact clearColumn_getElem pivot row j hr hp hlt

/-- The rows that remain are the rows other than the pivot, in their order. -/
theorem getElem?_eraseIdx_succAbove {α : Type} (rows : List α) {k : Nat} (p : Fin (k + 1)) (i : Fin k) :
    (rows.eraseIdx p)[(i : Nat)]? = rows[(p.succAbove i : Nat)]? := by
  rw [List.getElem?_eraseIdx, Fin.succAbove]
  simp only [Fin.lt_def, Fin.val_castSucc]
  split <;> rfl

/-- The remaining rows are the minor of the pivot. -/
theorem byteMatrix_clearColumn {k : Nat} {rows : List (List Byte)} (hn : rows.length = k + 1)
    (hr : ∀ r ∈ rows, r.length = k + 1) {p : Fin (k + 1)} {pivot : List Byte} (hp : rows[(p : Nat)]? = some pivot) :
    byteMatrix k ((rows.eraseIdx p).map (clearColumn pivot)) =
      (clearedMatrix (byteMatrix (k + 1) rows) p).submatrix p.succAbove Fin.succ := by
  ext1 i j
  obtain ⟨row, hrow⟩ : ∃ row, rows[(p.succAbove i : Nat)]? = some row :=
    ⟨_, List.getElem?_eq_getElem (by omega)⟩
  have hlen : row.length = k + 1 := hr _ (List.mem_of_getElem? hrow)
  have hplen : pivot.length = k + 1 := hr _ (List.mem_of_getElem? hp)
  have hentry := clearColumn_getD (pivot := pivot) (row := row) (j := j) (by omega) (by omega)
  rw [Matrix.submatrix_apply, clearedMatrix, if_neg (Fin.succAbove_ne p i)]
  simpa [byteMatrix, List.getD, getElem?_eraseIdx_succAbove, hrow, hp] using hentry

/-- One column of the elimination leaves a square matrix of one row and one column less. -/
theorem clearColumn_square {k : Nat} {rows rest : List (List Byte)} {pivot : List Byte} (hn : rows.length = k + 1)
    (hr : ∀ r ∈ rows, r.length = k + 1) (h : splitPivot rows = some (pivot, rest)) :
    (rest.map (clearColumn pivot)).length = k ∧ ∀ r ∈ rest.map (clearColumn pivot), r.length = k := by
  obtain ⟨hperm, -⟩ := splitPivot_some h
  have hmem : ∀ r ∈ pivot :: rest, r.length = k + 1 := fun r hr' => hr r (hperm.mem_iff.2 hr')
  have hlen := hperm.length_eq
  rw [List.length_cons] at hlen
  refine ⟨by rw [List.length_map]; omega, fun r hr' => ?_⟩
  obtain ⟨row, hrow, rfl⟩ := List.mem_map.1 hr'
  rw [clearColumn_length, hmem row (by simp [hrow]), hmem pivot (by simp)]
  simp

/-- One column of the elimination keeps whether the determinant is a unit. -/
theorem isUnit_det_iff_of_splitPivot_some {k : Nat} {rows rest : List (List Byte)} {pivot : List Byte}
    (hn : rows.length = k + 1) (hr : ∀ r ∈ rows, r.length = k + 1) (h : splitPivot rows = some (pivot, rest)) :
    IsUnit (byteMatrix (k + 1) rows).det ↔ IsUnit (byteMatrix k (rest.map (clearColumn pivot))).det := by
  obtain ⟨-, hodd⟩ := splitPivot_some h
  obtain ⟨r, hpivot, rfl⟩ := splitPivot_eraseIdx h
  obtain ⟨hlt, -⟩ := List.getElem?_eq_some_iff.1 hpivot
  obtain ⟨p, rfl⟩ : ∃ p : Fin (k + 1), (p : Nat) = r := ⟨⟨r, by omega⟩, rfl⟩
  have hp : (byteMatrix (k + 1) rows p 0).getLsbD 0 = true := by
    simpa [byteMatrix, hpivot, List.getD, List.headD_eq_head?_getD, List.head?_eq_getElem?] using hodd
  have hsign : IsUnit ((-1) ^ (p : Nat) * byteMatrix (k + 1) rows p 0) :=
    (isUnit_one.neg.pow _).mul (isUnit_byte_iff.2 hp)
  rw [det_eq_pivot_mul hp, byteMatrix_clearColumn hn hr hpivot, IsUnit.mul_iff]
  exact and_iff_right hsign

/-- Elimination with odd pivots succeeds exactly on the matrices whose determinant is a unit. -/
theorem eliminates_iff_isUnit_det {k : Nat} {rows : List (List Byte)} (hn : rows.length = k)
    (hr : ∀ r ∈ rows, r.length = k) : eliminates k rows = true ↔ IsUnit (byteMatrix k rows).det := by
  induction k generalizing rows with
  | zero =>
    rw [Matrix.det_isEmpty]
    exact iff_of_true rfl isUnit_one
  | succ k ih =>
    unfold eliminates
    cases hs : splitPivot rows with
    | none => simpa using not_isUnit_of_two_dvd (two_dvd_det_of_splitPivot_none hn hs)
    | some split =>
      obtain ⟨hn', hr'⟩ := clearColumn_square hn hr hs
      exact (ih hn' hr').trans (isUnit_det_iff_of_splitPivot_some hn hr hs).symm

/-- Settles O40: both sides say that the determinant is a unit. -/
theorem gateDecidesInvertibility : Obligations.GateDecidesInvertibility := by
  unfold Obligations.GateDecidesInvertibility
  exact fun k rows hn hr => (eliminates_iff_isUnit_det hn hr).trans (invertible256_iff_isUnit_det k rows).symm

/-- The determinant modulo 256 is the integer determinant, reduced. -/
theorem intCast_det_byteMatrix (k : Nat) (rows : List (List Byte)) :
    ((((byteMatrix k rows).map fun b : Byte => (b.toNat : ℤ)).det : ℤ) : Byte) = (byteMatrix k rows).det := by
  rw [Int.cast_det]
  congr 1
  ext1 i j
  simp [Matrix.map_apply]

/-- Settles O41: the integer determinant reduces to the determinant modulo 256, a unit exactly when it is odd; then the
inverse of the matrix is the one two-sided inverse. -/
theorem invertibleWhenDeterminantOdd : Obligations.InvertibleWhenDeterminantOdd := by
  unfold Obligations.InvertibleWhenDeterminantOdd
  intro k rows hn hr
  have hunit := eliminates_iff_isUnit_det hn hr
  refine ⟨by rw [hunit, ← isUnit_intCast_byte, intCast_det_byteMatrix], fun h => ?_⟩
  have hdet := hunit.1 h
  refine ⟨(byteMatrix k rows)⁻¹, ⟨Matrix.mul_nonsing_inv _ hdet, Matrix.nonsing_inv_mul _ hdet⟩, fun b hb => ?_⟩
  exact (Matrix.inv_eq_right_inv hb.1).symm

/-- Settles O42: column `m` of the padded matrix is zero, and so is its determinant. -/
theorem paddedMatrixSingular : Obligations.PaddedMatrixSingular := by
  unfold Obligations.PaddedMatrixSingular
  intro k m rows hmk hn hr padded
  have hrow : ∀ r ∈ padded, r.length = k ∧ r.getD m 0 = 0 := by
    intro r hpad
    obtain ⟨row, hrow, rfl⟩ := List.mem_map.1 hpad
    have hlen := hr row hrow
    refine ⟨by simp; omega, ?_⟩
    rw [List.getD_append_right _ _ _ _ hlen.le]
    simp [List.getD, hlen, hmk]
  have hn' : padded.length = k := by simpa [padded] using hn
  have hdet : (byteMatrix k padded).det = 0 := by
    refine Matrix.det_eq_zero_of_column_eq_zero ⟨m, hmk⟩ fun i => ?_
    have hi : (i : Nat) < padded.length := by omega
    rw [byteMatrix, List.getD_eq_getElem _ _ hi]
    exact (hrow _ (List.getElem_mem hi)).2
  have hunit : ¬ IsUnit (byteMatrix k padded).det := by
    rw [hdet]
    exact not_isUnit_of_two_dvd (dvd_zero 2)
  refine ⟨fun h => hunit ((invertible256_iff_isUnit_det _ _).1 h), ?_⟩
  rw [← Bool.not_eq_true, eliminates_iff_isUnit_det hn' fun r h => (hrow r h).1]
  exact hunit

end Sys2Proof.Machine

/-! PROOFS. The statements about DECODE (spec 42 R164 to R170): the candidate and the digests of one block, DECODE's
errors in their order, what it delivers when every block matches, and what becomes of altered blocks. -/

namespace Sys2Proof.Machine

/-! ## One block (42 R164 to R166) -/

/-- Two strings of `k` bytes are equal exactly when they are byte by byte. -/
theorem eq_iff_getD {k : Nat} {x y : List Byte} (hx : x.length = k) (hy : y.length = k) :
    x = y ↔ ∀ j < k, x.getD j 0 = y.getD j 0 := by
  refine ⟨fun h _ _ => h ▸ rfl, fun h => List.ext_getElem (by omega) fun j hj hj' => ?_⟩
  have := h j (by omega)
  rwa [List.getD_eq_getElem _ _ hj, List.getD_eq_getElem _ _ hj'] at this

theorem candidate_length {k : Nat} {data stored : List Byte} (rows : List (List Byte)) (hd : data.length = k)
    (hs : stored.length = k) : (candidate k data stored rows).length = k := by
  simp [candidate, syndrome, hd, hs]

/-- Byte `j` of the candidate: `D[j] xor (Parity(D,M)[j] xor P[j])` (42 R165). -/
theorem candidate_getD {k j : Nat} {data stored : List Byte} (rows : List (List Byte)) (hd : data.length = k)
    (hs : stored.length = k) (hj : j < k) :
    (candidate k data stored rows).getD j 0 =
      data.getD j 0 ^^^ ((parity k data rows).getD j 0 ^^^ stored.getD j 0) := by
  have hc := candidate_length rows hd hs
  rw [List.getD_eq_getElem _ _ (by omega), List.getD_eq_getElem _ _ (by omega),
    List.getD_eq_getElem _ _ (by simpa using hj), List.getD_eq_getElem _ _ (by omega)]
  simp only [candidate, syndrome, xorBytes_getElem]

/-- The candidate is the data exactly when the syndrome is zero, that is when the stored parity is right. -/
theorem candidate_eq_data_iff {k : Nat} {data stored : List Byte} (rows : List (List Byte)) (hd : data.length = k)
    (hs : stored.length = k) : candidate k data stored rows = data ↔ stored = parity k data rows := by
  have hbyte (x p y : Byte) : x ^^^ (p ^^^ y) = x ↔ y = p := by
    have h := BitVec.xor_right_inj (x := p ^^^ y) (y := 0#8) x
    rw [BitVec.xor_zero, BitVec.xor_eq_zero_iff] at h
    exact h.trans eq_comm
  rw [eq_iff_getD (candidate_length rows hd hs) hd, eq_iff_getD hs (parity_length k data rows)]
  exact forall₂_congr fun j hj => by rw [candidate_getD rows hd hs hj, hbyte]

/-- A parity byte is the sum of its lane in the arithmetic modulo 256. -/
theorem parity_getD {k m : Nat} {data : List Byte} {rows : List (List Byte)} (hd : data.length = k)
    (hn : rows.length = k) {j : Nat} (hj : j < m) :
    (parity m data rows).getD j 0 = ∑ i : Fin k, data.getD i 0 * (rows.getD i []).getD j 0 := by
  subst hd
  rw [List.getD_eq_getElem _ _ (by simpa using hj), parity_getElem, laneSum_eq_sum _ _ _ hn.symm]
  rw [Fin.sum_univ_eq_sum_range (fun i => data.getD i 0 * (rows.getD i []).getD j 0)]
  have hmod (x : Nat) : BitVec.ofNat 8 (x % 256) = (x : Byte) := BitVec.eq_of_toNat_eq (by simp)
  have hbyte (b : Byte) : ((b.toNat : Nat) : Byte) = b := by simp
  rw [hmod, Nat.cast_sum]
  exact Finset.sum_congr rfl fun i _ => by rw [Nat.cast_mul, hbyte, hbyte]

/-- Under an invertible matrix different data have different parity (42 R170). -/
theorem parity_injective {k : Nat} {x y : List Byte} {rows : List (List Byte)} (hi : Invertible256 k rows)
    (hn : rows.length = k) (hx : x.length = k) (hy : y.length = k) (h : parity k x rows = parity k y rows) : x = y := by
  obtain ⟨b, hb⟩ := hi
  have hrow {z : List Byte} (hz : z.length = k) :
      Matrix.vecMul (fun i : Fin k => z.getD i 0) (byteMatrix k rows) =
        fun j : Fin k => (parity k z rows).getD j 0 :=
    funext fun j => (parity_getD hz hn j.isLt).symm
  have hvec : (fun i : Fin k => x.getD i 0) = fun i : Fin k => y.getD i 0 := by
    rw [← Matrix.vecMul_one (fun i : Fin k => x.getD i 0), ← Matrix.vecMul_one (fun i : Fin k => y.getD i 0), ← hb,
      ← Matrix.vecMul_vecMul, ← Matrix.vecMul_vecMul, hrow hx, hrow hy, h]
  exact (eq_iff_getD hx hy).2 fun j hj => congrFun hvec ⟨j, hj⟩

/-- Settles O43: the formula of a byte, and the candidate is the data exactly when the syndrome is zero. -/
theorem candidateEqualsDataIff : Obligations.CandidateEqualsDataIff := by
  unfold Obligations.CandidateEqualsDataIff
  exact fun k data stored rows hd hs _ =>
    ⟨fun j hj => candidate_getD rows hd hs hj, candidate_eq_data_iff rows hd hs⟩

/-- Settles O44: the verifier compares the digests, and nothing else. -/
theorem verifierComparesDigests : Obligations.VerifierComparesDigests := by
  unfold Obligations.VerifierComparesDigests
  exact State.blockMatches_iff

/-! ## DECODE's branches (42 R167) -/

section

variable {s : State}

theorem execDecode_of_inputTooLarge (hm : s.mvalid = true) (hlen : s.cfg.nMax < s.n ∨ s.cfg.ibufBytes < s.len) :
    exec .decode s = .next (s.raise .capacityExceeded) := by
  simp only [exec, execDecode, hm, hlen, Bool.true_eq_false, if_true, if_false]

theorem execDecode_of_wrongSize (hm : s.mvalid = true) (hn : s.n ≤ s.cfg.nMax) (hlen : s.len ≤ s.cfg.ibufBytes)
    (hsize : (∃ i < s.n, (s.bltEntry i).toNat ≠ s.k + s.m) ∨ s.len ≠ s.n * (s.k + s.m)) :
    exec .decode s = .next (s.raise .invalidBlockSize) := by
  simp only [exec, execDecode, hm, not_lt.2 hn, not_lt.2 hlen, or_self, Bool.true_eq_false, if_false]
  split
  · rfl
  · next hok =>
    rw [Bool.not_eq_false, State.lengthsOk_iff] at hok
    obtain ⟨i, hi, hne⟩ | htotal := hsize
    · exact absurd (hok i hi) hne
    · rw [if_pos htotal]

theorem execDecode_of_outputTooLong (hm : s.mvalid = true) (hn : s.n ≤ s.cfg.nMax) (hlen : s.len ≤ s.cfg.ibufBytes)
    (hblt : ∀ i < s.n, (s.bltEntry i).toNat = s.k + s.m) (htotal : s.len = s.n * (s.k + s.m))
    (hout : s.cfg.obufBytes < s.n * s.k) : exec .decode s = .next (s.raise .capacityExceeded) := by
  simp only [exec, execDecode, hm, not_lt.2 hn, not_lt.2 hlen, or_self, s.lengthsOk_iff.2 hblt, not_not.2 htotal, hout,
    Bool.true_eq_false, if_true, if_false]

namespace DecodeSizes

variable (h : DecodeSizes s)

include h

/-- Past its size checks DECODE of a matrix that is not square raises MatrixNotInvertible (42 R161). -/
theorem exec_of_notSquare (hm : s.m ≠ s.k) : exec .decode s = .next (s.raise .matrixNotInvertible) := by
  obtain ⟨hheld, hn, hlen, hblt, htotal, hout⟩ := h
  simp only [exec, execDecode, hheld, not_lt.2 hn, not_lt.2 hlen, or_self, s.lengthsOk_iff.2 hblt, not_not.2 htotal,
    not_lt.2 hout, hm, Bool.true_eq_false, ne_eq, not_false_eq_true, if_true, if_false]

/-- Past its size checks DECODE of a square matrix goes to the gate. -/
theorem exec_of_square (hm : s.m = s.k) : exec .decode s = .next (decodeGated s) := by
  obtain ⟨hheld, hn, hlen, hblt, htotal, hout⟩ := h
  simp only [exec, execDecode, hheld, not_lt.2 hn, not_lt.2 hlen, or_self, s.lengthsOk_iff.2 hblt, not_not.2 htotal,
    not_lt.2 hout, not_not.2 hm, Bool.true_eq_false, if_false]

end DecodeSizes

end

/-- DECODE raises an error at once, or its checks pass and it goes to the gate. -/
theorem execDecode_raised_or_gated {s t : State} (h : exec .decode s = .next t) :
    (∃ e, e ≠ .noError ∧ t = s.raise e) ∨ (DecodeSizes s ∧ s.m = s.k ∧ t = decodeGated s) := by
  rcases execDecode_cases h with ⟨-, ht⟩ | ⟨-, -, ht⟩ | ⟨-, -, -, -, ht⟩ | ⟨-, -, -, -, -, -, ht⟩ | ⟨-, -, ht⟩ | hgate
  iterate 5 exact .inl ⟨_, by decide, ht⟩
  exact .inr hgate

/-! ## The gate and the blocks (42 R162, R167) -/

/-- The state after a DECODE whose blocks all match. -/
def State.delivered (s : State) : State :=
  { s.scratchWram with obuf := s.obuf.writeBytes 0 s.decodedData }.complete (s.n * s.k) s.n

section

variable {s : State}

/-- The gate passes a held square matrix exactly when it is invertible (42 R162). -/
theorem State.eliminates_matrix_iff (hm : s.m = s.k) : eliminates s.k s.matrix = true ↔ Invertible256 s.k s.matrix :=
  gateDecidesInvertibility _ _ s.matrix_length (hm ▸ s.matrix_row_length)

theorem decodeGated_of_singular (hm : s.m = s.k) (hi : ¬ Invertible256 s.k s.matrix) :
    decodeGated s = s.scratchWram.raise .matrixNotInvertible := by
  rw [← State.eliminates_matrix_iff hm, Bool.not_eq_true] at hi
  exact if_pos hi

/-- Past the gate the blocks decide: an error at the first mismatch, or the data when there is none. -/
theorem decodeGated_of_invertible (hm : s.m = s.k) (hi : Invertible256 s.k s.matrix) :
    (∃ i, s.firstMismatch = some i ∧ decodeGated s = s.scratchWram.raiseAt i) ∨
      ((∀ i < s.n, s.blockMatches i = true) ∧ decodeGated s = s.delivered) := by
  rcases decodeGated_cases s with ⟨hgate, -⟩ | ⟨-, hfailed⟩ | ⟨-, hnone, hdone⟩
  · exact absurd ((State.eliminates_matrix_iff hm).2 hi) (by simp [hgate])
  · exact .inl hfailed
  · exact .inr ⟨State.firstMismatch_none hnone, hdone⟩

/-- A DECODE all of whose blocks match returns the data. -/
theorem DecodeSizes.exec_of_match (h : DecodeSizes s) (hm : s.m = s.k) (hi : Invertible256 s.k s.matrix)
    (hall : ∀ i < s.n, s.blockMatches i = true) : exec .decode s = .next s.delivered := by
  rw [h.exec_of_square hm]
  rcases decodeGated_of_invertible hm hi with ⟨i, hfail, -⟩ | ⟨-, hdone⟩
  · obtain ⟨hlt, hne, -⟩ := State.firstMismatch_some hfail
    simp [hall i hlt] at hne
  · rw [hdone]

/-! ## How DECODE ends -/

theorem endedWith_scratchWram_raise (s : State) {e : ErrCode} (he : e ≠ .noError) :
    EndedWith s (s.scratchWram.raise e) e 0 0 0xFFFFFFFF :=
  { (raisedOnly_raise s he).ended with }

theorem endedWith_raiseAt (s : State) (i : Nat) :
    EndedWith s (s.scratchWram.raiseAt i) .integrityFailure 0 0 (BitVec.ofNat 32 i) := by
  constructor <;> rfl

theorem DecodeSizes.endedWith_delivered (h : DecodeSizes s) (hc : s.cfg.WellFormed) :
    EndedWith s s.delivered .noError (s.n * s.k) s.n 0xFFFFFFFF :=
  endedWith_complete rfl (lt_of_le_of_lt (h.output.trans hc.obufBytes_le) (by decide)) s.blkN.isLt

/-- The output of DECODE is the Data Segments in order (20 R73). -/
theorem State.delivered_obuf_read (hwf : s.obuf.wf) {i x : Nat} (hi : i < s.n) (hx : x < s.k) :
    s.delivered.obuf.read (i * s.k + x) = s.ibuf.read (i * (s.k + s.m) + x) :=
  read_writeBytes_of_getElem? hwf (s.decodedData_byte hi hx)

theorem State.delivered_obuf_read_outside (s : State) {a : Nat} (ha : s.n * s.k ≤ a) :
    s.delivered.obuf.read a = s.obuf.read a :=
  Memory.read_writeBytes_outside _ _ _ (.inr (by simpa using ha))

end

/-- An error writes the completion fields and nothing else (60 R200). -/
theorem State.finish_of_error (s : State) {e : ErrCode} (he : e ≠ .noError) (f : Word) :
    s.finish e 0 0 f = { s with err := e, busy := false, outLen := 0, blkOut := 0, failIndex := f,
                                intStatus := s.intStatus ||| 3 } := by
  rw [State.finish, completionBits, if_neg he]
  rfl

/-! ## Consistent blocks (42 R170) -/

section

variable {s : State}

/-- The candidate of a block equals its data exactly when the stored parity is the parity of the data. -/
theorem State.blockCandidate_eq_iff (hm : s.m = s.k) (i : Nat) :
    s.blockCandidate i = s.blockData i ↔ s.blockParity i = parity s.m (s.blockData i) s.matrix :=
  candidate_eq_data_iff _ (by simp [hm]) (by simp)

/-- A consistent block matches, whatever the digest function is. -/
theorem State.blockMatches_of_parity (hm : s.m = s.k) {i : Nat}
    (h : s.blockParity i = parity s.m (s.blockData i) s.matrix) : s.blockMatches i = true := by
  rw [State.blockMatches, (State.blockCandidate_eq_iff hm i).2 h, digestsMatch_self]

theorem State.blockData_getD (s : State) (i : Nat) {x : Nat} (hx : x < s.k) :
    (s.blockData i).getD x 0 = s.ibuf.read (i * (s.k + s.m) + x) := by
  rw [List.getD_eq_getElem _ _ (by simpa using hx)]
  exact Memory.readBytes_getElem ..

theorem State.blockParity_getD (s : State) (i : Nat) {j : Nat} (hj : j < s.m) :
    (s.blockParity i).getD j 0 = s.ibuf.read (i * (s.k + s.m) + s.k + j) := by
  rw [List.getD_eq_getElem _ _ (by simpa using hj)]
  exact Memory.readBytes_getElem ..

/-- A block whose parity bytes are the sums over its bytes of IBUF and MRAM is consistent. -/
theorem State.blockParity_eq_parity (s : State) (i : Nat)
    (h : ∀ j < s.m, (s.ibuf.read (i * (s.k + s.m) + s.k + j)).toNat =
      (∑ x ∈ Finset.range s.k,
        (s.ibuf.read (i * (s.k + s.m) + x)).toNat * (s.mram.read (x * s.m + j)).toNat) % 256) :
    s.blockParity i = parity s.m (s.blockData i) s.matrix := by
  refine (eq_iff_getD (k := s.m) (by simp) (by simp)).2 fun j hj => BitVec.eq_of_toNat_eq ?_
  rw [State.blockParity_getD s i hj, h j hj, List.getD_eq_getElem _ _ (by simpa using hj), parity_getElem,
    parityByte_toNat (by simp), State.blockData_length]
  refine congrArg (· % 256) (Finset.sum_congr rfl fun x hx => ?_)
  have hx := Finset.mem_range.1 hx
  rw [State.blockData_getD s i hx, State.matrix_entry s hx hj]

end

/-! ## The statements about DECODE -/

/-- Settles O45: consistent blocks match, whatever the digest function is. -/
theorem decodeReturnsSegments : Obligations.DecodeReturnsSegments := by
  unfold Obligations.DecodeReturnsSegments
  intro s hheld hn hlen hblt htotal hout hm hi hc hwf hparity
  have hsizes : DecodeSizes s := ⟨hheld, hn, hlen, hblt, htotal, hout⟩
  have h := hsizes.exec_of_match hm hi fun i hi =>
    State.blockMatches_of_parity hm (s.blockParity_eq_parity i (hparity i hi))
  exact ⟨_, h, hsizes.endedWith_delivered hc, exec_keptByCommand h, rfl, hheld, rfl,
    fun i hi x hx => State.delivered_obuf_read hwf hi hx, fun a ha => s.delivered_obuf_read_outside ha⟩

/-- Settles O46: past the gate DECODE delivers the data or raises at the first mismatch. -/
theorem decodeVerdictByDigests : Obligations.DecodeVerdictByDigests := by
  unfold Obligations.DecodeVerdictByDigests
  intro s hheld hn hlen hblt htotal hout hm hi hc hwf agree
  have hsizes : DecodeSizes s := ⟨hheld, hn, hlen, hblt, htotal, hout⟩
  have hagree (i : Nat) : s.blockMatches i = true ↔ agree i := s.blockMatches_iff i
  have h := hsizes.exec_of_square hm
  have hkept := exec_keptByCommand h
  refine ⟨_, h, hkept, ?_⟩
  rcases decodeGated_of_invertible hm hi with ⟨i, hfail, hgated⟩ | ⟨hall, hgated⟩
  · obtain ⟨hlt, hne, hbefore⟩ := State.firstMismatch_some hfail
    rw [hgated]
    refine ⟨rfl, hheld, rfl, .inr ⟨i, hlt, fun ha => ?_, fun j hj => (hagree j).1 (hbefore j hj), rfl,
      endedWith_raiseAt s i⟩⟩
    simp [(hagree i).2 ha] at hne
  · rw [hgated]
    exact ⟨rfl, hheld, rfl, .inl ⟨fun i hi => (hagree i).1 (hall i hi), hsizes.endedWith_delivered hc,
      fun i hi x hx => State.delivered_obuf_read hwf hi hx, fun a ha => s.delivered_obuf_read_outside ha⟩⟩

/-- Settles O47: the checks of DECODE in their order, and the gate. -/
theorem decodeErrors : Obligations.DecodeErrors := by
  unfold Obligations.DecodeErrors
  refine fun s => ⟨fun hm => exists_raisedOnly (exec_noMatrix hm (.inr (.inr rfl))) (by decide),
    fun hm hlen => exists_raisedOnly (execDecode_of_inputTooLarge hm hlen) (by decide), fun hm hn hlen =>
    ⟨fun hsize => exists_raisedOnly (execDecode_of_wrongSize hm hn hlen hsize) (by decide), fun hblt htotal =>
    ⟨fun hout => exists_raisedOnly (execDecode_of_outputTooLong hm hn hlen hblt htotal hout) (by decide),
    fun hout hne => ?_, fun hout hsq hi => ?_⟩⟩⟩
  · have hsizes : DecodeSizes s := ⟨hm, hn, hlen, hblt, htotal, hout⟩
    exact exists_raisedOnly (hsizes.exec_of_notSquare hne) (by decide)
  · have hsizes : DecodeSizes s := ⟨hm, hn, hlen, hblt, htotal, hout⟩
    have h := hsizes.exec_of_square hsq
    rw [decodeGated_of_singular hsq hi] at h
    exact ⟨_, h, endedWith_scratchWram_raise s (by decide), exec_keptByCommand h, rfl, rfl, rfl, rfl⟩

/-- Settles O48: every error is `State.finish` of a state with OBUF untouched, and the data is delivered only when no
block mismatches. -/
theorem decodeAllOrNothing : Obligations.DecodeAllOrNothing := by
  unfold Obligations.DecodeAllOrNothing
  intro s t h
  rcases execDecode_raised_or_gated h with ⟨e, he, rfl⟩ | ⟨-, -, rfl⟩
  · exact ⟨fun hobuf => absurd rfl hobuf, fun _ => s.finish_of_error he _⟩
  rcases decodeGated_cases s with ⟨-, hgated⟩ | ⟨-, i, -, hgated⟩ | ⟨-, hnone, hgated⟩ <;> rw [hgated]
  · exact ⟨fun hobuf => absurd rfl hobuf, fun he => s.scratchWram.finish_of_error he _⟩
  · exact ⟨fun hobuf => absurd rfl hobuf, fun he => s.scratchWram.finish_of_error he _⟩
  · exact ⟨fun _ => ⟨rfl, State.firstMismatch_none hnone⟩, fun he => absurd rfl he⟩

/-! ## ENCODE, then DECODE (42 R169) -/

/-- The block `d` holds the matrix of `s`, and in IBUF the `n` Framed Blocks of `s`. -/
structure HoldsEncoded (s d : State) (n : Nat) : Prop where
  paramK : d.paramK = s.paramK
  paramM : d.paramM = s.paramM
  mram : ∀ a < s.k * s.m, d.mram.read a = s.mram.read a
  ibuf : ∀ a < n * (s.k + s.m), (s.encodedBlocks n)[a]? = some (d.ibuf.read a)

namespace HoldsEncoded

variable {s d : State} {n : Nat} (h : HoldsEncoded s d n)

include h

theorem k : d.k = s.k := congrArg BitVec.toNat h.paramK

theorem m : d.m = s.m := congrArg BitVec.toNat h.paramM

theorem matrix : d.matrix = s.matrix := State.matrix_congr h.paramK h.paramM h.mram

theorem ibuf_data {i x : Nat} (hi : i < n) (hx : x < s.k) :
    d.ibuf.read (i * (s.k + s.m) + x) = s.ibuf.read (i * s.k + x) :=
  Option.some.inj ((h.ibuf _ (blockByte_lt hi (by omega))).symm.trans (s.encodedBlocks_data hi hx))

theorem blockData {i : Nat} (hi : i < n) : d.blockData i = s.segment i := by
  simp only [State.blockData, State.segment, Memory.readBytes, h.k, h.m]
  exact List.map_congr_left fun x hx => h.ibuf_data hi (List.mem_range.1 hx)

/-- The parity bytes ENCODE wrote are the parity of the data (41 R141). -/
theorem blockParity {i : Nat} (hi : i < n) : d.blockParity i = parity d.m (d.blockData i) d.matrix := by
  rw [h.blockData hi, h.matrix, h.m]
  simp only [State.blockParity, Memory.readBytes, parity, h.k, h.m]
  refine List.map_congr_left fun j hj => Option.some.inj ?_
  have hj := List.mem_range.1 hj
  rw [← s.encodedBlocks_parity hi hj, Nat.add_assoc]
  exact (h.ibuf _ (blockByte_lt hi (by omega))).symm

end HoldsEncoded

/-- ENCODE that ends with code 0 has written its Framed Blocks. -/
theorem encode_obuf_of_noError {s t : State} (h : exec .encode s = .next t) (herr : t.err = .noError) :
    t.obuf = s.obuf.writeBytes 0 (s.encodedBlocks (s.len / s.k)) := by
  rcases execEncode_cases h with ⟨-, rfl⟩ | ⟨-, -, rfl⟩ | ⟨-, -, -, rfl⟩ | ⟨-, -, -, -, rfl⟩ | ⟨-, -, -, -, rfl⟩
  iterate 4 cases herr
  rfl

/-- Settles O50: the decoding block's blocks are consistent, and their data are the segments that were encoded. -/
theorem decodeOfEncodedDataReturnsIt : Obligations.DecodeOfEncodedDataReturnsIt := by
  unfold Obligations.DecodeOfEncodedDataReturnsIt
  intro s t d n hencode herr hm hi hwf hheld hpk hpm hmram hibuf hcount hblt htotal hnmax hlen hout hdwf
  have hin : HoldsEncoded s d n := by
    refine ⟨hpk, hpm, hmram, fun a ha => ?_⟩
    have hlt : a < (s.encodedBlocks n).length := by simpa using ha
    rw [hibuf a ha, encode_obuf_of_noError hencode herr, read_writeBytes_zero hwf hlt, List.getElem?_eq_getElem hlt]
  have hsizes : DecodeSizes d :=
    { held := hheld
      count := hcount ▸ hnmax
      input := hlen
      lengths := by rwa [hcount, hin.k, hin.m]
      total := by rwa [hcount, hin.k, hin.m]
      output := by rwa [hcount, hin.k] }
  have hsq : d.m = d.k := by rw [hin.k, hin.m, hm]
  have hinv : Invertible256 d.k d.matrix := by rwa [hin.k, hin.matrix]
  have hdecode := hsizes.exec_of_match hsq hinv fun i hi =>
    State.blockMatches_of_parity hsq (hin.blockParity (hcount ▸ hi))
  refine ⟨_, hdecode, rfl, fun a ha => ?_⟩
  have hk : 0 < s.k := Nat.pos_of_ne_zero fun h0 => by simp [h0] at ha
  have hblock : a / s.k < n := (Nat.div_lt_iff_lt_mul hk).2 ha
  have hx : a % s.k < s.k := Nat.mod_lt _ hk
  have hread := State.delivered_obuf_read (s := d) hdwf (i := a / s.k) (x := a % s.k) (by omega) (hin.k ▸ hx)
  rw [hin.k, hin.m, hin.ibuf_data hblock hx, Nat.div_add_mod'] at hread
  exact hread

/-! ## Tampering (42 R170) -/

/-- Settles O51: other parity bytes are not the parity of the data, and other data have other parity under an invertible
matrix; DECODE then meets a mismatch at that block or an earlier one. -/
theorem tamperingDetected : Obligations.TamperingDetected := by
  unfold Obligations.TamperingDetected
  intro s u i hm hi hconsistent hpk hpm hmatrix hchange
  have hk' : u.k = s.k := congrArg BitVec.toNat hpk
  have hm' : u.m = s.m := congrArg BitVec.toNat hpm
  have hsq : u.m = u.k := by rw [hk', hm', hm]
  have hparity : u.blockParity i ≠ parity u.m (u.blockData i) u.matrix := by
    rw [hm', hmatrix]
    rcases hchange with ⟨hdata, hne⟩ | ⟨hsame, hne⟩
    · rwa [hdata, ← hconsistent]
    · rw [hsame, hconsistent, hm]
      exact fun h => hne (parity_injective hi s.matrix_length (by simp [hk']) (by simp) h.symm)
  refine ⟨fun h => hparity ((State.blockCandidate_eq_iff hsq i).1 h), fun hheld hlt hn hlen hblt htotal hout => ?_⟩
  have hsizes : DecodeSizes u := ⟨hheld, hn, hlen, hblt, htotal, hout⟩
  have hinv : Invertible256 u.k u.matrix := by rwa [hk', hmatrix]
  refine ⟨_, hsizes.exec_of_square hsq, or_iff_not_imp_left.2 fun hne => ?_⟩
  rw [← State.blockMatches_iff] at hne
  rcases decodeGated_of_invertible hsq hinv with ⟨j, hfail, hgated⟩ | ⟨hall, -⟩
  · obtain ⟨-, -, hbefore⟩ := State.firstMismatch_some hfail
    have hji : j ≤ i := not_lt.1 fun hij => hne (hbefore i hij)
    rw [hgated]
    exact ⟨rfl, (Nat.mod_le ..).trans hji, rfl⟩
  · exact absurd (hall i hlt) hne

end Sys2Proof.Machine

/-! PROOFS. The statements about completion, errors and the interrupt output (spec 60 R200, R201, R207, R211): the codes
each command ends with, what the end of a command leaves in the outputs and the result registers, and what `irq` is. -/

namespace Sys2Proof.Machine

/-! ## The codes of each command (60 R201) -/

/-- The codes with which a command can end, by the column "raised by" of 60 R201. -/
def endCodes : Instr → List ErrCode
  | .genMatrix => [.noError, .invalidParameters, .matrixLocked]
  | .loadMatrix => [.noError, .invalidParameters, .invalidBlockSize, .matrixLocked, .capacityExceeded]
  | .exportMatrix => [.noError, .noMatrix, .capacityExceeded]
  | .clearMatrix => [.noError]
  | .encode => [.noError, .invalidBlockSize, .noMatrix, .capacityExceeded]
  | .decode => [.noError, .invalidBlockSize, .matrixNotInvertible, .integrityFailure, .noMatrix, .capacityExceeded]

/-- DECODE from the gate on ends with MatrixNotInvertible, IntegrityFailure or no error. -/
theorem decodeGated_err (s : State) : (decodeGated s).err ∈ endCodes .decode := by
  rcases decodeGated_cases s with ⟨-, h⟩ | ⟨-, i, -, h⟩ | ⟨-, -, h⟩ <;> simp [h, endCodes]

/-- A command ends with one of its codes; only GEN_MATRIX can wait and leave the state as it is. -/
theorem exec_err_mem {i : Instr} {s t : State} (h : exec i s = .next t) :
    (t = s ∧ i = .genMatrix) ∨ t.err ∈ endCodes i := by
  cases i with
  | genMatrix =>
    rcases execGenMatrix_cases h with ⟨-, rfl⟩ | ⟨-, -, rfl⟩ | ⟨-, -, -, ht⟩ | ⟨-, -, -, rfl⟩
    · simp [endCodes]
    · simp [endCodes]
    · exact .inl ⟨ht, rfl⟩
    · simp [endCodes]
  | loadMatrix =>
    rcases execLoadMatrix_cases h with ⟨-, rfl⟩ | ⟨-, -, rfl⟩ | ⟨-, -, -, rfl⟩ | ⟨-, -, -, -, rfl⟩ |
      ⟨-, -, -, -, rfl⟩ <;> simp [endCodes]
  | exportMatrix =>
    rcases execExportMatrix_cases h with ⟨-, rfl⟩ | ⟨-, -, rfl⟩ | ⟨-, -, rfl⟩ <;> simp [endCodes]
  | clearMatrix =>
    cases h
    simp [endCodes]
  | encode =>
    rcases execEncode_cases h with ⟨-, rfl⟩ | ⟨-, -, rfl⟩ | ⟨-, -, -, rfl⟩ | ⟨-, -, -, -, -, rfl⟩ |
      ⟨-, -, -, -, rfl⟩ <;> simp [endCodes]
  | decode =>
    rcases execDecode_cases h with ⟨-, rfl⟩ | ⟨-, -, rfl⟩ | ⟨-, -, -, -, rfl⟩ | ⟨-, -, -, -, -, -, rfl⟩ |
      ⟨-, -, rfl⟩ | ⟨-, -, rfl⟩
    iterate 5 simp [endCodes]
    · exact .inr (decodeGated_err s)

/-- Only DECODE can end with IntegrityFailure. -/
theorem eq_decode_of_integrityFailure_mem {i : Instr} (h : .integrityFailure ∈ endCodes i) : i = .decode := by
  cases i <;> simp [endCodes] at h ⊢

/-- Settles O53: the code of each end is in its command's row of the table. -/
theorem errorCodes : Obligations.ErrorCodes := by
  unfold Obligations.ErrorCodes
  refine ⟨rfl, ?_, ?_, ?_, ?_, ?_, ?_⟩ <;> intro s t h <;> simpa [endCodes] using exec_err_mem h

/-! ## The event bits of a completion (60 R200) -/

/-- A completion sets CMD_DONE. -/
theorem completionBits_cmdDone (e : ErrCode) : (completionBits e).getLsbD 0 = true := by
  cases e <;> rfl

/-- A completion sets CMD_ERR exactly when its code is an error. -/
theorem completionBits_cmdErr (e : ErrCode) : (completionBits e).getLsbD 1 = true ↔ e ≠ .noError := by
  cases e <;> decide

/-- A completion leaves WR_DROP alone. -/
theorem completionBits_wrDrop (e : ErrCode) : (completionBits e).getLsbD 2 = false := by
  cases e <;> rfl

/-! ## The outputs and the result registers at the end of a command (60 R200, 10 R31 to R33) -/

/-- What the end of a command in state `t`, from state `s`, leaves in the outputs and the result registers. -/
structure ResultsSet (s t : State) : Prop where
  error : t.err ≠ .noError → OutputsKept s t ∧ t.outLen = 0 ∧ t.blkOut = 0
  noBlock : t.err ≠ .integrityFailure → t.failIndex = 0xFFFFFFFF
  mismatch : t.err = .integrityFailure → ∃ j, s.firstMismatch = some j ∧ t.failIndex = BitVec.ofNat 32 j

section

variable {s u : State}

theorem resultsSet_complete (l b : Nat) : ResultsSet s (u.complete l b) where
  error he := absurd rfl he
  noBlock _ := rfl
  mismatch he := by cases he

/-- An error that names no block, raised from a state `u` in which the outputs are still those of `s`. -/
theorem resultsSet_raise {e : ErrCode} (hu : OutputsKept s u) (he : e ≠ .integrityFailure) :
    ResultsSet s (u.raise e) where
  error _ := ⟨⟨hu.mram, hu.mvalid, hu.obuf, hu.entropy⟩, rfl, rfl⟩
  noBlock _ := rfl
  mismatch h := absurd h he

/-- IntegrityFailure at the first mismatch, raised from a state `u` in which the outputs are still those of `s`. -/
theorem resultsSet_raiseAt {j : Nat} (hu : OutputsKept s u) (hj : s.firstMismatch = some j) :
    ResultsSet s (u.raiseAt j) where
  error _ := ⟨⟨hu.mram, hu.mvalid, hu.obuf, hu.entropy⟩, rfl, rfl⟩
  noBlock h := absurd rfl h
  mismatch _ := ⟨j, hj, rfl⟩

end

theorem outputsKept_refl (s : State) : OutputsKept s s := ⟨rfl, rfl, rfl, rfl⟩

/-- Losing WRAM's contents touches no output. -/
theorem outputsKept_scratchWram (s : State) : OutputsKept s s.scratchWram := ⟨rfl, rfl, rfl, rfl⟩

/-- A command waits for entropy and changes nothing, or it ends and sets its results. -/
theorem exec_waits_or_resultsSet {i : Instr} {s t : State} (h : exec i s = .next t) : t = s ∨ ResultsSet s t := by
  rcases exec_cases h with ⟨ht, -⟩ | ⟨e, -, rfl, he, -⟩ | ⟨-, rfl⟩ | ⟨-, j, hj, rfl⟩ | ⟨-, -, -, rfl⟩ | ⟨-, -, rfl⟩ |
    ⟨-, -, rfl⟩ | ⟨-, rfl⟩ | ⟨-, -, rfl⟩ | ⟨-, -, rfl⟩
  · exact .inl ht
  · exact .inr (resultsSet_raise (outputsKept_refl s) he)
  · exact .inr (resultsSet_raise (outputsKept_scratchWram s) (by decide))
  · exact .inr (resultsSet_raiseAt (outputsKept_scratchWram s) hj)
  all_goals exact .inr (resultsSet_complete _ _)

/-! ## The end of a command in the Core's turn (60 R200) -/

/-- The Core's turn writes none of the fields that no command writes. -/
theorem coreTurn_keptByCommand {s t : State} (h : coreTurn s = .next t) : KeptByCommand s t := by
  rcases coreTurn_cases h with ⟨-, rfl⟩ | ⟨-, i, -, he⟩ | ⟨-, -, rfl⟩
  · constructor <;> rfl
  · exact exec_keptByCommand he
  · constructor <;> rfl

/-- The end of a command is not the state before it: BUSY has fallen. -/
theorem CommandEnded.ne {s t : State} (ended : CommandEnded s t) : t ≠ s := by
  rintro rfl
  exact Bool.false_ne_true (ended.idle.symm.trans ended.inFlight)

/-- The results of a command, and of a word that is no command. -/
theorem CommandEnded.resultsSet {s t : State} (ended : CommandEnded s t) (h : coreTurn s = .next t) :
    ResultsSet s t := by
  rcases coreTurn_cases h with ⟨-, ht⟩ | ⟨-, i, -, he⟩ | ⟨-, -, rfl⟩
  · exact absurd ht ended.ne
  · exact (exec_waits_or_resultsSet he).resolve_left ended.ne
  · exact resultsSet_raise (outputsKept_refl s) (by decide)

/-- A command that ended with IntegrityFailure is DECODE (60 R201). -/
theorem CommandEnded.cmdw_of_integrityFailure {s t : State} (ended : CommandEnded s t) (h : coreTurn s = .next t)
    (herr : t.err = .integrityFailure) : s.cmdw = 0x00000020 := by
  rcases coreTurn_cases h with ⟨-, ht⟩ | ⟨-, i, hi, he⟩ | ⟨-, -, rfl⟩
  · exact absurd ht ended.ne
  · have hmem := (exec_err_mem he).resolve_left fun hw => ended.ne hw.1
    obtain rfl := eq_decode_of_integrityFailure_mem (herr ▸ hmem)
    exact eq_encodeWord_of_decodeWord hi
  · cases herr

/-- Settles O52: the Core's turn waits for entropy or is the end of a command, whose event bits, frame and results are
those of its code. -/
theorem completionStep : Obligations.CompletionStep := by
  unfold Obligations.CompletionStep
  intro s t hb h
  rcases coreTurn_waits_or_ends h with ⟨ht, hidle | hwait⟩ | ended
  · exact absurd (hidle.symm.trans hb) Bool.false_ne_true
  · exact .inl ⟨ht, hwait⟩
  · have results := ended.resultsSet h
    refine .inr ⟨ended.idle, coreTurn_keptByCommand h, ?_, ?_, ?_, results.error, results.noBlock, fun herr => ?_⟩
    · rw [ended.intStatus, BitVec.getLsbD_or, completionBits_cmdDone, Bool.or_true]
    · rw [ended.intStatus, BitVec.getLsbD_or, Bool.or_eq_true, completionBits_cmdErr]
    · rw [ended.intStatus, BitVec.getLsbD_or, completionBits_wrDrop, Bool.or_false]
    · obtain ⟨j, hj, hindex⟩ := results.mismatch herr
      obtain ⟨hlt, hne, hbefore⟩ := State.firstMismatch_some hj
      exact ⟨ended.cmdw_of_integrityFailure h herr, j, hlt, hindex, hne, hbefore⟩

/-! ## The step that runs a command (60 R200, 30 R92) -/

/-- A word written out as a number is the word that is placed. -/
theorem State.withFetchWord_toNat (s : State) (w : Word) : s.withFetchWord 32 w.toNat = s.placeCommand w := by
  rw [State.withFetchWord, Nat.mod_eq_of_lt w.isLt, BitVec.ofNat_toNat, BitVec.setWidth_eq]

/-- The step after the placement of a command is that command on the state that has accepted its word. -/
theorem step_placeCommand (s : State) {i : Instr} {w : Word} (hw : decodeWord w = .ok i) :
    step (s.placeCommand w) = exec i (s.accept w) :=
  calc step (s.placeCommand w) = coreTurn (s.accept w) := step_of_cons (x := .core) (rest := s.inbox) rfl
    _ = exec i (s.accept w) := coreTurn_of_ok rfl hw

/-- Settles O5: the step is the Core's turn, and the Core's turn is the decoded command. -/
theorem stepRunsDecodedCommand : Obligations.StepRunsDecodedCommand := by
  unfold Obligations.StepRunsDecodedCommand
  refine ⟨fun s i hb hi => ⟨fun hin => ?_, fun rest hin => ?_⟩, fun s i w hw => ?_⟩
  · exact (step_of_empty hin).trans (coreTurn_of_ok hb hi)
  · exact (step_of_cons hin).trans (coreTurn_of_ok (s := { s with inbox := rest }) hb hi)
  · rw [State.withFetchWord_toNat, step_placeCommand s hw]

/-! ## The interrupt output (60 R207) -/

/-- `irq` in terms of the words the two registers read. -/
theorem State.irq_iff (s : State) :
    s.irq = true ↔ (s.intStatusWord.getLsbD 0 = true ∧ s.intEnableWord.getLsbD 0 = true) ∨
      (s.intStatusWord.getLsbD 1 = true ∧ s.intEnableWord.getLsbD 1 = true) ∨
      (s.intStatusWord.getLsbD 2 = true ∧ s.intEnableWord.getLsbD 2 = true) := by
  simp [State.irq, State.cmdDone, State.cmdErr, State.wrDrop, State.intStatusWord, State.intEnableWord, or_assoc]

/-- Without a pending event `irq` is 0. -/
theorem State.irq_of_noEvent {s : State} (h : s.intStatus = 0) : s.irq = false := by
  simp [State.irq, State.cmdDone, State.cmdErr, State.wrDrop, h]

/-- What a read of a register shows is the register's value. -/
theorem eq_readReg_of_response {s : State} (r : Reg) {w : Word}
    (h : (s.hostAccess (.read r.offset 4)).response = some { error := false, data := w }) : w = s.readReg r := by
  rw [hostAccess_read_reg] at h
  cases h
  rfl

/-- Settles O14: the two reads show the pending bits and the enables, and no event is pending after reset. -/
theorem interruptOutput : Obligations.InterruptOutput := by
  unfold Obligations.InterruptOutput
  refine ⟨fun s st en hst hen => ?_, State.irq_of_noEvent rfl, fun s => State.irq_of_noEvent rfl⟩
  obtain rfl := eq_readReg_of_response .intStatus hst
  obtain rfl := eq_readReg_of_response .intEnable hen
  exact s.irq_iff

/-! ## GEN_MATRIX without its bytes (60 R211) -/

/-- Settles O28: the checks of GEN_MATRIX pass, and the bytes are not there. -/
theorem genMatrixWaitsForEntropy : Obligations.GenMatrixWaitsForEntropy := by
  unfold Obligations.GenMatrixWaitsForEntropy
  intro s hm hv he
  simp only [exec, execGenMatrix, hm, not_not.2 hv, he, Bool.false_eq_true, if_true, if_false]

end Sys2Proof.Machine

/-! PROOFS. The statements about reset and about the accesses and the turns that could race with a command (spec 70 R230
to R233, R236, R242; 20 R77): what `rst` gives, what an access while BUSY leaves alone, and how the inputs run out. -/

namespace Sys2Proof.Machine

/-! ## Runs over the whole inbox (70 R242) -/

/-- A step serves the first input and leaves the others to come. -/
theorem step_inbox {s t : State} (h : step s = .next t) : t.inbox = s.inbox.tail := by
  rcases step_cases h with ⟨hin, hc⟩ | ⟨rest, hin, hc⟩ | ⟨a, rest, hin, rfl⟩ | ⟨rest, hin, rfl⟩ | ⟨b, rest, hin, rfl⟩ <;>
    rw [hin]
  · exact (coreTurn_keptByCommand hc).inbox.trans hin
  · exact (coreTurn_keptByCommand hc).inbox
  · exact (hostAccess_untouched _ a).inbox
  · rfl
  · rfl

/-- A run starts with a step. -/
theorem run_succ_of_step (M : Host.Core) {s t : M.State} (h : M.step s = .next t) (n : Nat) :
    M.run (n + 1) s = M.run n t := by
  simp only [Host.Core.run, h]

/-- A run of `length(inbox) + 1` steps ends with the Core's turn on a state without inputs. -/
theorem run_inbox_ends_with_turn (s : State) :
    ∃ u t, u.inbox = [] ∧ coreTurn u = .next t ∧ core.run (s.inbox.length + 1) s = .next t := by
  induction hin : s.inbox generalizing s with
  | nil =>
    obtain ⟨t, ht⟩ := coreTurn_next s
    exact ⟨s, t, hin, ht, run_succ_of_step core ((step_of_empty hin).trans ht) 0⟩
  | cons x rest ih =>
    obtain ⟨t, ht⟩ := step_next s
    have hrest : t.inbox = rest := by rw [step_inbox ht, hin, List.tail_cons]
    obtain ⟨u, v, hu, hv, hrun⟩ := ih t hrest
    exact ⟨u, v, hu, hv, (run_succ_of_step core ht _).trans hrun⟩

/-- A command still in flight after the Core's turn is a GEN_MATRIX whose checks passed and whose bytes have not all
come (60 R211). -/
theorem coreTurn_busy {s t : State} (h : coreTurn s = .next t) (ht : t.busy = true) :
    decodeWord t.cmdw = .ok .genMatrix ∧ t.mvalid = false ∧ ValidKM t.cfg t.k t.m ∧ t.entropy.length < t.k * t.m := by
  rcases coreTurn_cases h with ⟨hidle, rfl⟩ | ⟨-, i, hi, he⟩ | ⟨-, -, rfl⟩
  · simp [hidle] at ht
  · rcases exec_waits_or_completes he with ⟨-, rfl, -⟩ | ⟨hidle, -⟩
    · rcases execGenMatrix_cases he with ⟨-, rfl⟩ | ⟨-, -, rfl⟩ | ⟨hm, hv, hshort, rfl⟩ | ⟨-, -, -, rfl⟩
      · simp at ht
      · simp at ht
      · exact ⟨hi, hm, hv, hshort⟩
      · simp at ht
    · simp [hidle] at ht
  · simp at ht

/-- Settles O7: the last of the steps is the Core's turn, after which only a waiting GEN_MATRIX is in flight. -/
theorem commandsComplete : Obligations.CommandsComplete := by
  unfold Obligations.CommandsComplete
  intro s
  obtain ⟨u, t, hu, ht, hrun⟩ := run_inbox_ends_with_turn s
  exact ⟨t, hrun, (coreTurn_keptByCommand ht).inbox.trans hu, coreTurn_busy ht⟩

/-! ## Accesses while a command is in flight (70 R236, 20 R77) -/

/-- What a host access may change while a command is in flight: the event bits, their enables, the answer and the draw
counter. -/
def InputsFrozen (s t : State) : Prop :=
  t = { s with intStatus := t.intStatus, intEnable := t.intEnable, response := t.response, free := t.free }

/-- The registers that hold a command word or an operand (10 R23, R27 to R30). -/
def lockedRegs : List Reg := [.ctrl, .paramK, .paramM, .inLen, .blkN]

section

variable {s : State}

/-- A write to one of these registers is dropped while a command is in flight. -/
theorem writeReg_locked (hb : s.busy = true) (v : Word) {r : Reg} (hr : r ∈ lockedRegs) :
    s.writeReg v r = s.dropWrite := by
  simp only [lockedRegs, List.mem_cons, List.not_mem_nil, or_false] at hr
  rcases hr with rfl | rfl | rfl | rfl | rfl
  · exact State.unlessBusy_of_busy _ hb
  · exact State.unlessHeld_of_held _ (.inl hb)
  · exact State.unlessHeld_of_held _ (.inl hb)
  · exact State.unlessBusy_of_busy _ hb
  · exact State.unlessBusy_of_busy _ hb

/-- The host's write to one of these registers is dropped while a command is in flight. -/
theorem hostAccess_write_locked (hb : s.busy = true) (v : Word) {r : Reg} (hr : r ∈ lockedRegs) :
    s.hostAccess (.write r.offset 4 v) = s.dropWrite.answer false 0 := by
  rw [hostAccess_write_reg, writeReg_locked hb v hr]

/-- A permitted write to BLT or IBUF is dropped while a command is in flight (20 R67, R69). -/
theorem hostAccess_write_buffer_of_busy (hb : s.busy = true) {off : Word} (v : Word) {width : Nat}
    (hp : Permitted s.cfg off width) (ha : apertureNo off = 1 ∨ apertureNo off = 2) :
    s.hostAccess (.write off width v) = s.dropWrite.answer false 0 := by
  rcases ha with ha | ha
  · have hw : WordAccess (4 * s.cfg.nMax) (localOffset off) width := by simpa [Permitted, ha] using hp
    rw [hostAccess_write_blt v ha hw, State.unlessBusy_of_busy _ hb]
  · have hw : ByteAccess s.cfg.ibufBytes (localOffset off) width := by simpa [Permitted, ha] using hp
    rw [hostAccess_write_ibuf v ha hw, State.unlessBusy_of_busy _ hb]

/-- A write to a register while a command is in flight reaches the event bits and their enables at most. -/
theorem writeReg_inputsFrozen (hb : s.busy = true) (v : Word) (r : Reg) : InputsFrozen s (s.writeReg v r) := by
  have stored_absurd (hidle : s.busy = false) : InputsFrozen s (s.writeReg v r) :=
    absurd (hb.symm.trans hidle) (by decide)
  rcases writeReg_cases s v r with h | ⟨-, h⟩ | ⟨-, hidle, -⟩ | ⟨-, h⟩ | ⟨-, h⟩ | ⟨hidle, -⟩ | ⟨hidle, -⟩ |
    ⟨hidle, -⟩ | ⟨hidle, -⟩
  iterate 2 (rw [h]; rfl)
  · exact stored_absurd hidle
  iterate 2 (rw [h]; rfl)
  iterate 4 exact stored_absurd hidle

/-- No host access while a command is in flight reaches an input, an output or the command word. -/
theorem hostAccess_inputsFrozen (hb : s.busy = true) (a : Access) : InputsFrozen s (s.hostAccess a) := by
  obtain ⟨u, x, d, he, hu⟩ := hostAccess_cases s a
  have answered (h : InputsFrozen s u) : InputsFrozen s (u.answer x d) :=
    (congrArg (fun w : State => w.answer x d) h).trans rfl
  rw [he]
  refine answered ?_
  rcases hu with rfl | ⟨-, rfl⟩ | ⟨-, -, rfl⟩ | ⟨v, r, off, -, -, -, rfl⟩ | ⟨hidle, -⟩ | ⟨hidle, -⟩
  iterate 3 rfl
  · exact writeReg_inputsFrozen hb v r
  iterate 2 exact absurd (hb.symm.trans hidle) (by decide)

end

/-- Settles O25: every access is one of those that store nothing, and each write it lists is dropped by its lock. -/
theorem inputsFrozenWhileBusy : Obligations.InputsFrozenWhileBusy := by
  unfold Obligations.InputsFrozenWhileBusy
  refine fun s hb => ⟨hostAccess_inputsFrozen hb, fun off v width hwrite => ?_⟩
  rcases hwrite with ⟨rfl, rfl | rfl | rfl | rfl | rfl⟩ | ⟨hp, ha⟩
  · exact hostAccess_write_locked hb v (r := .ctrl) (by decide)
  · exact hostAccess_write_locked hb v (r := .paramK) (by decide)
  · exact hostAccess_write_locked hb v (r := .paramM) (by decide)
  · exact hostAccess_write_locked hb v (r := .inLen) (by decide)
  · exact hostAccess_write_locked hb v (r := .blkN) (by decide)
  · exact hostAccess_write_buffer_of_busy hb v hp ha

/-! ## Reset (70 R230 to R233) -/

/-- Settles O57: the step is `restart`, whose registers are those of the reset state and whose stores are free draws. -/
theorem resetRestoresEverything : Obligations.ResetRestoresEverything := by
  unfold Obligations.ResetRestoresEverything
  intro s rest hin
  refine ⟨({ s with inbox := rest } : State).restart, step_of_cons hin, rfl, rfl, rfl, rfl, rfl, rfl, rfl, rfl, rfl,
    rfl, rfl, rfl, rfl, State.irq_of_noEvent rfl, rfl, rfl, fun a => ?_⟩
  exact ⟨Memory.read_unknown _ a, Memory.read_unknown _ a, Memory.read_unknown _ a, Memory.read_unknown _ a,
    Memory.read_unknown _ a⟩

/-- Settles O58: the reset values one by one; no event is pending, and the Core of an idle block waits. -/
theorem stateAfterReset : Obligations.StateAfterReset := by
  unfold Obligations.StateAfterReset
  exact ⟨rfl, rfl, rfl, rfl, rfl, rfl, rfl, rfl, rfl, rfl, rfl, State.irq_of_noEvent rfl,
    (step_of_empty rfl).trans (coreTurn_of_idle rfl)⟩

/-- A store of an already used draw is in order at every capacity. -/
theorem storeOk_unknown {s : State} {draw : Nat} (h : draw < s.free) (capacity : Nat) :
    StoreOk s (Memory.unknown draw) capacity where
  wf := Memory.unknown_wf draw
  within := Memory.unknown_within draw capacity
  drawUsed d hd := by cases hd; exact h

/-- Settles O60: REF is legal, no matrix is held, the stores are the draws 0 to 4 of the 5 used, and the completion
fields are those after `rst`. -/
theorem invariantAtReset : Obligations.InvariantAtReset := by
  unfold Obligations.InvariantAtReset
  have hdone := completionOk_restart State.reset
  exact
    { config := (Config.wf_iff Config.ref).1 (by decide)
      held := fun hheld => absurd hheld (by decide)
      mramOk := storeOk_unknown (by decide) _
      wramOk := storeOk_unknown (by decide) _
      ibufOk := storeOk_unknown (by decide) _
      obufOk := storeOk_unknown (by decide) _
      bltOk := storeOk_unknown (by decide) _
      inFlight := hdone.inFlight
      failIndex := hdone.failIndex
      errorLengths := hdone.errorLengths
      outLen := hdone.outLen }

end Sys2Proof.Machine
